-- ==== Sys2Proof/Word.lean ====
section
/-! DEFINITION. The value types of the machine: what the spec treats as bits is a bit vector
(00_scope.md R6: every value is unsigned), what it treats as an index is a `Fin`. -/

namespace Sys2Proof

/-- An 8-bit value: a general register, a timer, a memory cell, an immediate `nn` (R11, R21, R29). -/
abbrev Byte := BitVec 8

/-- A 16-bit value: an instruction word, `pc`, `I`, a stack entry (R15, R18, R19, R61). -/
abbrev Word := BitVec 16

/-- A 12-bit value: a main-memory address or an `nnn` operand (R40, R62). -/
abbrev Addr := BitVec 12

/-- The number of a general register, V0 to VF (R11). -/
abbrev Reg := Fin 16

end Sys2Proof
end

