-- ==== Sys2Proof/Syntax.lean ====
section
/-! DEFINITION. The instructions: one constructor per row of spec/opcode_table.json
(30_encoding.md R63), with the operand fields of R62; and the assembler's view of a line (R72). -/

namespace Sys2Proof

/-- The 34 instructions, in the order of R63. `x` and `y` are register numbers, `nn` an 8-bit
immediate, `nnn` a 12-bit address, `n` a count of sprite rows. `shr` and `shl` keep their ignored
`y` field (R71), so that no bit of an encoding is lost. -/
inductive Instr where
  /-- `00E0`, `CLS` (R131) -/
  | cls
  /-- `00EE`, `RET` (R82) -/
  | ret
  /-- `1nnn`, `JP nnn` (R80) -/
  | jp (nnn : Addr)
  /-- `2nnn`, `CALL nnn` (R81) -/
  | call (nnn : Addr)
  /-- `3xnn`, `SE Vx, nn` (R91) -/
  | seImm (x : Reg) (nn : Byte)
  /-- `4xnn`, `SNE Vx, nn` (R92) -/
  | sneImm (x : Reg) (nn : Byte)
  /-- `5xy0`, `SE Vx, Vy` (R93) -/
  | seReg (x y : Reg)
  /-- `6xnn`, `LD Vx, nn` (R101) -/
  | ldImm (x : Reg) (nn : Byte)
  /-- `7xnn`, `ADD Vx, nn` (R102) -/
  | addImm (x : Reg) (nn : Byte)
  /-- `8xy0`, `LD Vx, Vy` (R103) -/
  | ldReg (x y : Reg)
  /-- `8xy1`, `OR Vx, Vy` (R104) -/
  | orReg (x y : Reg)
  /-- `8xy2`, `AND Vx, Vy` (R105) -/
  | andReg (x y : Reg)
  /-- `8xy3`, `XOR Vx, Vy` (R106) -/
  | xorReg (x y : Reg)
  /-- `8xy4`, `ADD Vx, Vy` (R107) -/
  | addReg (x y : Reg)
  /-- `8xy5`, `SUB Vx, Vy` (R108) -/
  | subReg (x y : Reg)
  /-- `8xy6`, `SHR Vx` (R109) -/
  | shr (x y : Reg)
  /-- `8xy7`, `SUBN Vx, Vy` (R110) -/
  | subnReg (x y : Reg)
  /-- `8xyE`, `SHL Vx` (R111) -/
  | shl (x y : Reg)
  /-- `9xy0`, `SNE Vx, Vy` (R94) -/
  | sneReg (x y : Reg)
  /-- `Annn`, `LD I, nnn` (R121) -/
  | ldI (nnn : Addr)
  /-- `Bnnn`, `JP V0, nnn` (R83) -/
  | jpV0 (nnn : Addr)
  /-- `Cxnn`, `RND Vx, nn` (R115) -/
  | rnd (x : Reg) (nn : Byte)
  /-- `Dxyn`, `DRW Vx, Vy, n` (R133) -/
  | drw (x y : Reg) (n : Nat)
  /-- `Ex9E`, `SKP Vx` (R140) -/
  | skp (x : Reg)
  /-- `ExA1`, `SKNP Vx` (R141) -/
  | sknp (x : Reg)
  /-- `Fx07`, `LD Vx, DT` (R143) -/
  | ldVxDt (x : Reg)
  /-- `Fx0A`, `LD Vx, K` (R142) -/
  | ldVxK (x : Reg)
  /-- `Fx15`, `LD DT, Vx` (R144) -/
  | ldDtVx (x : Reg)
  /-- `Fx18`, `LD ST, Vx` (R145) -/
  | ldStVx (x : Reg)
  /-- `Fx1E`, `ADD I, Vx` (R122) -/
  | addI (x : Reg)
  /-- `Fx29`, `LD F, Vx` (R123) -/
  | ldF (x : Reg)
  /-- `Fx33`, `LD B, Vx` (R124) -/
  | ldB (x : Reg)
  /-- `Fx55`, `LD [I], Vx` (R125) -/
  | storeRegs (x : Reg)
  /-- `Fx65`, `LD Vx, [I]` (R126) -/
  | loadRegs (x : Reg)
deriving DecidableEq, Repr

/-- The mnemonic words of R72 (the spec's decision D18: naming only, no behaviour rests on them). -/
inductive Mnemonic where
  | CLS | RET | JP | CALL | SE | SNE | LD | ADD | OR | AND | XOR | SUB | SHR | SUBN | SHL | RND
  | DRW | SKP | SKNP
deriving DecidableEq, Repr

/-- One operand of an assembler line (R72): a register, a number of one of the three widths, or one
of the fixed operand names. -/
inductive Operand where
  /-- `V0` to `VF` -/
  | reg (r : Reg)
  /-- an 8-bit number `nn` -/
  | byte (nn : Byte)
  /-- a 12-bit number `nnn` -/
  | addr (nnn : Addr)
  /-- a row count `n` -/
  | rows (n : Nat)
  /-- the index register, `I` -/
  | index
  /-- the delay timer, `DT` -/
  | delay
  /-- the sound timer, `ST` -/
  | sound
  /-- a key, `K` -/
  | key
  /-- the font glyph address, `F` -/
  | glyph
  /-- the decimal digits, `B` -/
  | bcd
  /-- memory at the index register, `[I]` -/
  | atIndex
deriving DecidableEq, Repr

/-- One assembler line: a mnemonic and its operands (R72). -/
structure AsmLine where
  mnemonic : Mnemonic
  operands : List Operand
deriving DecidableEq, Repr

end Sys2Proof
end

