-- ==== Sys2Proof/WellFormed.lean ====
section
/-! DEFINITION. Which instruction terms stand for an encoding. Register numbers, immediates and
addresses are in range by their types ("register operands are always in range by construction",
30_encoding.md R62); the one operand kept as a plain count is the row count of `Dxyn`. -/

namespace Sys2Proof

/-- An instruction is well formed when every operand is one its encoding can hold: the row count of
`Dxyn` is in 0..15 (R62). -/
def WellFormed : Instr → Bool
  | .drw _ _ n => decide (n < 16)
  | .cls | .ret | .jp _ | .call _ | .seImm _ _ | .sneImm _ _ | .seReg _ _ | .ldImm _ _
  | .addImm _ _ | .ldReg _ _ | .orReg _ _ | .andReg _ _ | .xorReg _ _ | .addReg _ _
  | .subReg _ _ | .shr _ _ | .subnReg _ _ | .shl _ _ | .sneReg _ _ | .ldI _ | .jpV0 _
  | .rnd _ _ | .skp _ | .sknp _ | .ldVxDt _ | .ldVxK _ | .ldDtVx _ | .ldStVx _ | .addI _
  | .ldF _ | .ldB _ | .storeRegs _ | .loadRegs _ => true

end Sys2Proof
end

