-- ==== Sys2Proof/Decode.lean ====
section
/-! DEFINITION. The decoder (30_encoding.md R61 to R71) and the encoder (R63, R72), the opcode map of
R63 as a table, and the assembler's reading of a line (R72). -/

namespace Sys2Proof

/-! ## The operand fields of a word (00_scope.md R7, 30_encoding.md R62) -/

/-- `w[15:12]`, the top nibble. -/
def topNibble (w : Word) : BitVec 4 := w.extractLsb' 12 4
/-- `x = w[11:8]`. -/
def fieldX (w : Word) : Reg := (w.extractLsb' 8 4).toFin
/-- `y = w[7:4]`. -/
def fieldY (w : Word) : Reg := (w.extractLsb' 4 4).toFin
/-- `n = w[3:0]`. -/
def fieldN (w : Word) : Nat := (w.extractLsb' 0 4).toNat
/-- `nn = w[7:0]`. -/
def fieldNN (w : Word) : Byte := w.extractLsb' 0 8
/-- `nnn = w[11:0]`. -/
def fieldNNN (w : Word) : Addr := w.extractLsb' 0 12

/-! ## The decode procedure (30_encoding.md R64) -/

/-- Family 0: only the two exact words (R65). -/
def decodeFamily0 (w : Word) : Option Instr :=
  if w = 0x00E0 then some .cls else if w = 0x00EE then some .ret else none

/-- Family 8: the low nibble selects among nine instructions (R67). -/
def decodeFamily8 (w : Word) : Option Instr :=
  match fieldN w with
  | 0x0 => some (.ldReg (fieldX w) (fieldY w))
  | 0x1 => some (.orReg (fieldX w) (fieldY w))
  | 0x2 => some (.andReg (fieldX w) (fieldY w))
  | 0x3 => some (.xorReg (fieldX w) (fieldY w))
  | 0x4 => some (.addReg (fieldX w) (fieldY w))
  | 0x5 => some (.subReg (fieldX w) (fieldY w))
  | 0x6 => some (.shr (fieldX w) (fieldY w))
  | 0x7 => some (.subnReg (fieldX w) (fieldY w))
  | 0xE => some (.shl (fieldX w) (fieldY w))
  | _ => none

/-- Family E: the low byte selects between the two key skips (R68). -/
def decodeFamilyE (w : Word) : Option Instr :=
  if fieldNN w = 0x9E then some (.skp (fieldX w))
  else if fieldNN w = 0xA1 then some (.sknp (fieldX w))
  else none

/-- Family F: the low byte selects among nine instructions (R68). -/
def decodeFamilyF (w : Word) : Option Instr :=
  if fieldNN w = 0x07 then some (.ldVxDt (fieldX w))
  else if fieldNN w = 0x0A then some (.ldVxK (fieldX w))
  else if fieldNN w = 0x15 then some (.ldDtVx (fieldX w))
  else if fieldNN w = 0x18 then some (.ldStVx (fieldX w))
  else if fieldNN w = 0x1E then some (.addI (fieldX w))
  else if fieldNN w = 0x29 then some (.ldF (fieldX w))
  else if fieldNN w = 0x33 then some (.ldB (fieldX w))
  else if fieldNN w = 0x55 then some (.storeRegs (fieldX w))
  else if fieldNN w = 0x65 then some (.loadRegs (fieldX w))
  else none

/-- `Decode(word)` (R64): the instruction the word stands for, or `none` where the word is illegal
(R69). It reads the word and nothing else. -/
def decode (w : Word) : Option Instr :=
  match (topNibble w).toNat with
  | 0x0 => decodeFamily0 w
  | 0x1 => some (.jp (fieldNNN w))
  | 0x2 => some (.call (fieldNNN w))
  | 0x3 => some (.seImm (fieldX w) (fieldNN w))
  | 0x4 => some (.sneImm (fieldX w) (fieldNN w))
  | 0x5 => if fieldN w = 0 then some (.seReg (fieldX w) (fieldY w)) else none
  | 0x6 => some (.ldImm (fieldX w) (fieldNN w))
  | 0x7 => some (.addImm (fieldX w) (fieldNN w))
  | 0x8 => decodeFamily8 w
  | 0x9 => if fieldN w = 0 then some (.sneReg (fieldX w) (fieldY w)) else none
  | 0xA => some (.ldI (fieldNNN w))
  | 0xB => some (.jpV0 (fieldNNN w))
  | 0xC => some (.rnd (fieldX w) (fieldNN w))
  | 0xD => some (.drw (fieldX w) (fieldY w) (fieldN w))
  | 0xE => decodeFamilyE w
  | _ => decodeFamilyF w

/-- Why bytes are not an instruction. -/
inductive Reject where
  /-- fewer than two bytes: every instruction is one 16-bit word (R61) -/
  | truncated
  /-- the word matches no row of the opcode map (R69); it is reported with the word -/
  | decodeFailure (word : Word)
deriving DecidableEq, Repr

/-- The word whose high byte is stored first: instructions are big-endian (20_memory.md R45). -/
def wordOfBytes (hi lo : Byte) : Word := hi ++ lo

/-- The two bytes of a word as memory holds them, high byte first (R45). -/
def bytesOfWord (w : Word) : List Byte := [w.extractLsb' 8 8, w.extractLsb' 0 8]

/-- The decoder on bytes: the instruction the first two bytes stand for and the bytes after it, or the
reason there is none. -/
def decodeBytes : List Byte → Except Reject (Instr × List Byte)
  | hi :: lo :: rest =>
    match decode (wordOfBytes hi lo) with
    | some i => .ok (i, rest)
    | none => .error (.decodeFailure (wordOfBytes hi lo))
  | [_] => .error .truncated
  | [] => .error .truncated

/-- The bytes, in memory order, of the instruction whose bits are `w` as spec/opcode_table.json
numbers them, every bit from `nbits` up being 0. -/
def tableBytes (nbits w : Nat) : List Byte := bytesOfWord (BitVec.ofNat 16 (w % 2 ^ nbits))

/-- The instruction the decoder reads from an opcode-table word. -/
def decodeTableWord (nbits w : Nat) : Option Instr :=
  match decodeBytes (tableBytes nbits w) with
  | .ok (i, _) => some i
  | .error _ => none

/-! ## The encoder (30_encoding.md R61, R63, R72): the row's `match` value with its fields inserted -/

/-- Format NNN: `nnn` in bits 11:0. -/
def wordNNN (opcode : Nat) (nnn : Addr) : Word := BitVec.ofNat 16 (opcode + nnn.toNat)
/-- Format XNN: `x` in bits 11:8 and `nn` in bits 7:0. -/
def wordXNN (opcode : Nat) (x : Reg) (nn : Byte) : Word :=
  BitVec.ofNat 16 (opcode + 256 * x.val + nn.toNat)
/-- Formats XYK and XYN: `x` in bits 11:8, `y` in bits 7:4, and the low nibble. -/
def wordXYN (opcode : Nat) (x y : Reg) (n : Nat) : Word :=
  BitVec.ofNat 16 (opcode + 256 * x.val + 16 * y.val + n % 16)
/-- Format XKK: `x` in bits 11:8, the low byte fixed. -/
def wordXKK (opcode : Nat) (x : Reg) : Word := BitVec.ofNat 16 (opcode + 256 * x.val)

/-- The word of an instruction (R63). -/
def encode : Instr → Word
  | .cls => 0x00E0
  | .ret => 0x00EE
  | .jp nnn => wordNNN 0x1000 nnn
  | .call nnn => wordNNN 0x2000 nnn
  | .seImm x nn => wordXNN 0x3000 x nn
  | .sneImm x nn => wordXNN 0x4000 x nn
  | .seReg x y => wordXYN 0x5000 x y 0
  | .ldImm x nn => wordXNN 0x6000 x nn
  | .addImm x nn => wordXNN 0x7000 x nn
  | .ldReg x y => wordXYN 0x8000 x y 0
  | .orReg x y => wordXYN 0x8000 x y 1
  | .andReg x y => wordXYN 0x8000 x y 2
  | .xorReg x y => wordXYN 0x8000 x y 3
  | .addReg x y => wordXYN 0x8000 x y 4
  | .subReg x y => wordXYN 0x8000 x y 5
  | .shr x y => wordXYN 0x8000 x y 6
  | .subnReg x y => wordXYN 0x8000 x y 7
  | .shl x y => wordXYN 0x8000 x y 0xE
  | .sneReg x y => wordXYN 0x9000 x y 0
  | .ldI nnn => wordNNN 0xA000 nnn
  | .jpV0 nnn => wordNNN 0xB000 nnn
  | .rnd x nn => wordXNN 0xC000 x nn
  | .drw x y n => wordXYN 0xD000 x y n
  | .skp x => wordXKK 0xE09E x
  | .sknp x => wordXKK 0xE0A1 x
  | .ldVxDt x => wordXKK 0xF007 x
  | .ldVxK x => wordXKK 0xF00A x
  | .ldDtVx x => wordXKK 0xF015 x
  | .ldStVx x => wordXKK 0xF018 x
  | .addI x => wordXKK 0xF01E x
  | .ldF x => wordXKK 0xF029 x
  | .ldB x => wordXKK 0xF033 x
  | .storeRegs x => wordXKK 0xF055 x
  | .loadRegs x => wordXKK 0xF065 x

/-- The bytes of an instruction as the program image holds them (R45). -/
def encodeBytes (i : Instr) : List Byte := bytesOfWord (encode i)

/-! ## The opcode map as a table (30_encoding.md R63) -/

/-- One row of the opcode map: a word `w` selects it when `w &&& mask = value`; `read` is the
instruction with the operand fields of the word. -/
structure OpcodeRow where
  value : Word
  mask : Word
  read : Word → Instr

/-- Does the word select the row? -/
def OpcodeRow.selectedBy (r : OpcodeRow) (w : Word) : Bool := decide (w &&& r.mask = r.value)

/-- The 34 rows of R63, in its order. -/
def opcodeTable : List OpcodeRow :=
  [⟨0x00E0, 0xFFFF, fun _ => .cls⟩,
   ⟨0x00EE, 0xFFFF, fun _ => .ret⟩,
   ⟨0x1000, 0xF000, fun w => .jp (fieldNNN w)⟩,
   ⟨0x2000, 0xF000, fun w => .call (fieldNNN w)⟩,
   ⟨0x3000, 0xF000, fun w => .seImm (fieldX w) (fieldNN w)⟩,
   ⟨0x4000, 0xF000, fun w => .sneImm (fieldX w) (fieldNN w)⟩,
   ⟨0x5000, 0xF00F, fun w => .seReg (fieldX w) (fieldY w)⟩,
   ⟨0x6000, 0xF000, fun w => .ldImm (fieldX w) (fieldNN w)⟩,
   ⟨0x7000, 0xF000, fun w => .addImm (fieldX w) (fieldNN w)⟩] ++
  [⟨0x8000, 0xF00F, fun w => .ldReg (fieldX w) (fieldY w)⟩,
   ⟨0x8001, 0xF00F, fun w => .orReg (fieldX w) (fieldY w)⟩,
   ⟨0x8002, 0xF00F, fun w => .andReg (fieldX w) (fieldY w)⟩,
   ⟨0x8003, 0xF00F, fun w => .xorReg (fieldX w) (fieldY w)⟩,
   ⟨0x8004, 0xF00F, fun w => .addReg (fieldX w) (fieldY w)⟩,
   ⟨0x8005, 0xF00F, fun w => .subReg (fieldX w) (fieldY w)⟩,
   ⟨0x8006, 0xF00F, fun w => .shr (fieldX w) (fieldY w)⟩,
   ⟨0x8007, 0xF00F, fun w => .subnReg (fieldX w) (fieldY w)⟩,
   ⟨0x800E, 0xF00F, fun w => .shl (fieldX w) (fieldY w)⟩,
   ⟨0x9000, 0xF00F, fun w => .sneReg (fieldX w) (fieldY w)⟩] ++
  [⟨0xA000, 0xF000, fun w => .ldI (fieldNNN w)⟩,
   ⟨0xB000, 0xF000, fun w => .jpV0 (fieldNNN w)⟩,
   ⟨0xC000, 0xF000, fun w => .rnd (fieldX w) (fieldNN w)⟩,
   ⟨0xD000, 0xF000, fun w => .drw (fieldX w) (fieldY w) (fieldN w)⟩] ++
  [⟨0xE09E, 0xF0FF, fun w => .skp (fieldX w)⟩,
   ⟨0xE0A1, 0xF0FF, fun w => .sknp (fieldX w)⟩,
   ⟨0xF007, 0xF0FF, fun w => .ldVxDt (fieldX w)⟩,
   ⟨0xF00A, 0xF0FF, fun w => .ldVxK (fieldX w)⟩,
   ⟨0xF015, 0xF0FF, fun w => .ldDtVx (fieldX w)⟩,
   ⟨0xF018, 0xF0FF, fun w => .ldStVx (fieldX w)⟩,
   ⟨0xF01E, 0xF0FF, fun w => .addI (fieldX w)⟩,
   ⟨0xF029, 0xF0FF, fun w => .ldF (fieldX w)⟩,
   ⟨0xF033, 0xF0FF, fun w => .ldB (fieldX w)⟩,
   ⟨0xF055, 0xF0FF, fun w => .storeRegs (fieldX w)⟩,
   ⟨0xF065, 0xF0FF, fun w => .loadRegs (fieldX w)⟩]

/-- Decoding by looking the word up in the opcode map (R63). -/
def decodeByTable (w : Word) : Option Instr :=
  (opcodeTable.find? (fun r => r.selectedBy w)).map (fun r => r.read w)

/-! ## The assembler's view (30_encoding.md R72) -/

/-- The operands of a shift: `SHR Vx` and `SHL Vx` stand for `y = 0`; the form with `Vy` sets the
unused `y` field. -/
def shiftOperands (x y : Reg) : List Operand := if y = 0 then [.reg x] else [.reg x, .reg y]

/-- The assembler line of an instruction. -/
def asmLine : Instr → AsmLine
  | .cls => ⟨.CLS, []⟩
  | .ret => ⟨.RET, []⟩
  | .jp nnn => ⟨.JP, [.addr nnn]⟩
  | .call nnn => ⟨.CALL, [.addr nnn]⟩
  | .seImm x nn => ⟨.SE, [.reg x, .byte nn]⟩
  | .sneImm x nn => ⟨.SNE, [.reg x, .byte nn]⟩
  | .seReg x y => ⟨.SE, [.reg x, .reg y]⟩
  | .ldImm x nn => ⟨.LD, [.reg x, .byte nn]⟩
  | .addImm x nn => ⟨.ADD, [.reg x, .byte nn]⟩
  | .ldReg x y => ⟨.LD, [.reg x, .reg y]⟩
  | .orReg x y => ⟨.OR, [.reg x, .reg y]⟩
  | .andReg x y => ⟨.AND, [.reg x, .reg y]⟩
  | .xorReg x y => ⟨.XOR, [.reg x, .reg y]⟩
  | .addReg x y => ⟨.ADD, [.reg x, .reg y]⟩
  | .subReg x y => ⟨.SUB, [.reg x, .reg y]⟩
  | .shr x y => ⟨.SHR, shiftOperands x y⟩
  | .subnReg x y => ⟨.SUBN, [.reg x, .reg y]⟩
  | .shl x y => ⟨.SHL, shiftOperands x y⟩
  | .sneReg x y => ⟨.SNE, [.reg x, .reg y]⟩
  | .ldI nnn => ⟨.LD, [.index, .addr nnn]⟩
  | .jpV0 nnn => ⟨.JP, [.reg 0, .addr nnn]⟩
  | .rnd x nn => ⟨.RND, [.reg x, .byte nn]⟩
  | .drw x y n => ⟨.DRW, [.reg x, .reg y, .rows n]⟩
  | .skp x => ⟨.SKP, [.reg x]⟩
  | .sknp x => ⟨.SKNP, [.reg x]⟩
  | .ldVxDt x => ⟨.LD, [.reg x, .delay]⟩
  | .ldVxK x => ⟨.LD, [.reg x, .key]⟩
  | .ldDtVx x => ⟨.LD, [.delay, .reg x]⟩
  | .ldStVx x => ⟨.LD, [.sound, .reg x]⟩
  | .addI x => ⟨.ADD, [.index, .reg x]⟩
  | .ldF x => ⟨.LD, [.glyph, .reg x]⟩
  | .ldB x => ⟨.LD, [.bcd, .reg x]⟩
  | .storeRegs x => ⟨.LD, [.atIndex, .reg x]⟩
  | .loadRegs x => ⟨.LD, [.reg x, .atIndex]⟩

/-- The `LD` lines: the operand names select the instruction among those that share the mnemonic. -/
def assembleLD : List Operand → Option Instr
  | [.reg x, .byte nn] => some (.ldImm x nn)
  | [.reg x, .reg y] => some (.ldReg x y)
  | [.index, .addr nnn] => some (.ldI nnn)
  | [.reg x, .delay] => some (.ldVxDt x)
  | [.reg x, .key] => some (.ldVxK x)
  | [.delay, .reg x] => some (.ldDtVx x)
  | [.sound, .reg x] => some (.ldStVx x)
  | [.glyph, .reg x] => some (.ldF x)
  | [.bcd, .reg x] => some (.ldB x)
  | [.atIndex, .reg x] => some (.storeRegs x)
  | [.reg x, .atIndex] => some (.loadRegs x)
  | _ => none

/-- The lines whose operands are two registers, one of the six plain `8xyk` forms. -/
def assembleXY (make : Reg → Reg → Instr) : List Operand → Option Instr
  | [.reg x, .reg y] => some (make x y)
  | _ => none

/-- A shift line: one register, or two where the unused `y` field is set. -/
def assembleShift (make : Reg → Reg → Instr) : List Operand → Option Instr
  | [.reg x] => some (make x 0)
  | [.reg x, .reg y] => some (make x y)
  | _ => none

/-- The instruction an assembler line stands for; its word is `encode` of it. -/
def assemble (l : AsmLine) : Option Instr :=
  match l.mnemonic, l.operands with
  | .CLS, [] => some .cls
  | .RET, [] => some .ret
  | .JP, [.addr nnn] => some (.jp nnn)
  | .JP, [.reg r, .addr nnn] => if r = 0 then some (.jpV0 nnn) else none
  | .CALL, [.addr nnn] => some (.call nnn)
  | .SE, [.reg x, .byte nn] => some (.seImm x nn)
  | .SE, [.reg x, .reg y] => some (.seReg x y)
  | .SNE, [.reg x, .byte nn] => some (.sneImm x nn)
  | .SNE, [.reg x, .reg y] => some (.sneReg x y)
  | .ADD, [.reg x, .byte nn] => some (.addImm x nn)
  | .ADD, [.reg x, .reg y] => some (.addReg x y)
  | .ADD, [.index, .reg x] => some (.addI x)
  | .RND, [.reg x, .byte nn] => some (.rnd x nn)
  | .DRW, [.reg x, .reg y, .rows n] => some (.drw x y n)
  | .SKP, [.reg x] => some (.skp x)
  | .SKNP, [.reg x] => some (.sknp x)
  | .LD, os => assembleLD os
  | .OR, os => assembleXY .orReg os
  | .AND, os => assembleXY .andReg os
  | .XOR, os => assembleXY .xorReg os
  | .SUB, os => assembleXY .subReg os
  | .SUBN, os => assembleXY .subnReg os
  | .SHR, os => assembleShift .shr os
  | .SHL, os => assembleShift .shl os
  | _, _ => none

end Sys2Proof
end

