-- ==== Sys2Proof/Config.lean ====
section
/-! DEFINITION. What is fixed for one machine: the implementation parameters of 00_scope.md R4 that
the spec marks as its own decisions (or as unaudited literals a claim may want to name), and the one
free value of the model. The parameters R4 marks "source" that are widths or counts of registers,
keys and framebuffer cells are in the types of Machine/State.lean. -/

namespace Sys2Proof.Config

/-- MEM_SIZE (R4): bytes of main memory. -/
abbrev memSize : Nat := 4096

/-- STACK_DEPTH (R4): entries of the call stack (the spec's decision D1). -/
abbrev stackDepth : Nat := 16

/-- PROG_BASE (R4): the load address, and the pc after reset. -/
def progBase : Word := 0x200

/-- PROG_MAX (R4): the longest program image, `0x1000 - 0x200` bytes. -/
def progMax : Nat := 3584

/-- V_RESET (R4): the reset value of V0 to VF (the spec's decision D11). -/
def vReset : Byte := 0

/-- I_RESET (R4): the reset value of the index register (the spec's decision D11). -/
def iReset : Word := 0

/-- STACK_RESET: what the stack entries hold after power-on. DESIGN CHOICE (unsafe, log entry 2): the
spec leaves them unspecified (R33, 93_implementation_defined.md U2); no instruction reads one before
`2nnn` has written it. -/
def stackReset : Word := 0

/-- FONT (R4, R30): the sixteen glyphs of five rows each, digit 0 first. The bytes are the spec's
general-knowledge table (G1, log entry 3). -/
def font : List Byte :=
  [0xF0, 0x90, 0x90, 0x90, 0xF0] ++ [0x20, 0x60, 0x20, 0x20, 0x70] ++
  [0xF0, 0x10, 0xF0, 0x80, 0xF0] ++ [0xF0, 0x10, 0xF0, 0x10, 0xF0] ++
  [0x90, 0x90, 0xF0, 0x10, 0x10] ++ [0xF0, 0x80, 0xF0, 0x10, 0xF0] ++
  [0xF0, 0x80, 0xF0, 0x90, 0xF0] ++ [0xF0, 0x10, 0x20, 0x40, 0x40] ++
  [0xF0, 0x90, 0xF0, 0x90, 0xF0] ++ [0xF0, 0x90, 0xF0, 0x10, 0xF0] ++
  [0xF0, 0x90, 0xF0, 0x90, 0x90] ++ [0xE0, 0x90, 0xE0, 0x90, 0xE0] ++
  [0xF0, 0x80, 0x80, 0x80, 0xF0] ++ [0xE0, 0x90, 0x90, 0x90, 0xE0] ++
  [0xF0, 0x80, 0xF0, 0x80, 0xF0] ++ [0xF0, 0x80, 0xF0, 0x80, 0x80]

/-- `RandomByte()` (R115, R31): the byte the k-th execution of `Cxnn` draws. A FREE VALUE: it has no
body, so no proof can tell which byte it is, and a claim holds for every stream of draws (log entry 1). -/
opaque randomByte : Nat → Byte

end Sys2Proof.Config
end

