-- ==== Sys2Proof/Machine/State.lean ====
section
/-! DEFINITION. The state of the machine as plain data (10_state.md R10 to R32), its value after reset
(R33, 70_reset_and_hazards.md R180), and the reasons a step can stop. -/

namespace Sys2Proof.Machine

/-- The framebuffer (R24): 32 rows, top first, of 64 one-bit cells, leftmost first. -/
abbrev Framebuffer := Vector (Vector Bool 64) 32

/-- The input vector (R26): one flag per hex key 0 to F, true when pressed. -/
abbrev Keys := Vector Bool 16

/-- Main memory (R29) as the cells that differ from their reset contents: addresses strictly rising,
no entry equal to what an unlisted address reads as (`Memory.resetByte`; `Memory.wf`). -/
abbrev Memory := List Host.Cell

/-- `FAULT.kind` (R27, 60_exceptions.md R150). -/
inductive FaultKind where
  /-- 0: nothing latched -/
  | noFault
  /-- 1: the fetched word is no instruction (R154) -/
  | decodeFailure
  /-- 2: `00EE` with an empty stack (R151) -/
  | stackUnderflow
  /-- 3: `2nnn` with a full stack (R152) -/
  | stackOverflow
deriving DecidableEq, Repr

/-- The FAULT register (R27): the kind, the instruction word that faulted and its pc. -/
structure FaultLatch where
  kind : FaultKind
  word : Word
  pc : Word
deriving DecidableEq, Repr

/-- The events through which the three agents act on the machine (00_scope.md R5, 60_exceptions.md
R166). The byte `Step(rnd)` hands over is the free value `Config.randomByte`. -/
inductive Event where
  /-- the Executor: one fetch, decode and execute (30_encoding.md R60) -/
  | step
  /-- the Timer Driver: count DT and ST down (R160) -/
  | tick
  /-- the host: replace the input vector (R167) -/
  | setKeys (keys : Keys)
  /-- the host: create the state anew (R180) -/
  | reset
  /-- the host: write a program image at 0x200 (R169) -/
  | install (bytes : List Byte)
deriving DecidableEq, Repr

/-- The state. The fields down to `awaitKey` are the state R10 lists; `soundOffEdge` is the machine's
pulse output (R23), held because the host views it between events (R34); `draws`, `started` and
`agenda` are the MODEL's own and stand for inputs of the machine (R31). -/
structure State where
  /-- `V[0..15]`, the general registers (R11) -/
  v : Vector Byte 16
  /-- `I`, the index register (R18) -/
  index : Word
  /-- `pc` (R15) -/
  pc : Word
  /-- `STACK[0..15]` (R19) -/
  stack : Vector Word Config.stackDepth
  /-- `SP`, the number of stack entries in use, 0 to 16 (R20) -/
  sp : Fin (Config.stackDepth + 1)
  /-- `DT`, the delay timer (R21) -/
  dt : Byte
  /-- `ST`, the sound timer (R22) -/
  st : Byte
  /-- `FB` (R24) -/
  fb : Framebuffer
  /-- `KEYS` (R26) -/
  keys : Keys
  /-- `MEM` (R29) -/
  mem : Memory
  /-- `FAULT` (R27) -/
  fault : FaultLatch
  /-- `AWAIT_KEY` (R28) -/
  awaitKey : Bool
  /-- `sound_off_edge` (R23, R160): true only right after a `Tick` that took ST from 1 to 0 -/
  soundOffEdge : Bool
  /-- MODEL (log entry 1): how many random bytes `Cxnn` has drawn; selects the next free value -/
  draws : Nat
  /-- MODEL (log entry 5): has a `Step` event happened since reset? `Install` belongs before it (R169) -/
  started : Bool
  /-- MODEL (log entry 4): the events to come, next one first; when it is empty the Executor steps -/
  agenda : List Event
deriving DecidableEq, Repr

/-- The faults that END a step without a next state: there are none. The three faults of the spec are
latched in FAULT by a step that completes (60_exceptions.md R153), and no access can fail, because
every address is masked before use (20_memory.md R40). Safe: a type with no constructor adds no
behaviour. -/
inductive Fault
deriving DecidableEq, Repr

/-- Why a step is given no meaning. -/
inductive Refusal where
  /-- Raised by `exec` for an instruction that has no meaning yet. No arm raises it. Safe. -/
  | notModelled (mnemonic : String)
  /-- Raised by the event `install` for an image longer than 3584 bytes: "this spec refuses it (the
  model has no meaning for such a launch)" (R169, D13). Safe: nothing can be proved of such a launch. -/
  | imageTooLong (length : Nat)
  /-- Raised by the event `install` once a `Step` has happened since reset: "an `Install` after the
  first `Step` is likewise outside the spec" (R169). Safe. -/
  | installAfterFirstStep
deriving DecidableEq, Repr

/-- The state right after `Reset` (R33, R180), before any `Install`: memory holds its reset contents,
so nothing is listed. The agenda is empty: the host only steps (log entry 4). -/
def State.reset : State where
  v := Vector.replicate 16 Config.vReset
  index := Config.iReset
  pc := Config.progBase
  stack := Vector.replicate Config.stackDepth Config.stackReset
  sp := 0
  dt := 0
  st := 0
  fb := Vector.replicate 32 (Vector.replicate 64 false)
  keys := Vector.replicate 16 false
  mem := []
  fault := ⟨.noFault, 0, 0⟩
  awaitKey := false
  soundOffEdge := false
  draws := 0
  started := false
  agenda := []

end Sys2Proof.Machine
end

