-- ==== Sys2Proof/Machine/Memory.lean ====
section
/-! DEFINITION. Main memory: what an address nothing has written reads as, reading and writing one
byte (20_memory.md R41, R42), and the canonical form that makes equal memories equal data. -/

namespace Sys2Proof.Machine

/-- What memory holds at address `a` after reset: the font table from 0x000, zero elsewhere (R33, R49).
It is also what an address with no listed cell reads as. -/
def Memory.resetByte (a : Nat) : Byte := Config.font.getD a 0

/-- The byte the cells give for address `a`. -/
def Memory.lookup : Memory → Nat → Byte
  | [], a => Memory.resetByte a
  | (k, b) :: rest, a => if k = a then b else Memory.lookup rest a

/-- Cells with the cell at `a` put in front of `rest`, unless it would hold the reset contents. -/
def Memory.cons (a : Nat) (b : Byte) (rest : Memory) : Memory :=
  if b = Memory.resetByte a then rest else (a, b) :: rest

/-- The cells after storing `b` at address `a`, in canonical form. -/
def Memory.store : Memory → Nat → Byte → Memory
  | [], a, b => Memory.cons a b []
  | (k, c) :: rest, a, b =>
    if a < k then Memory.cons a b ((k, c) :: rest)
    else if a = k then Memory.cons a b rest
    else (k, c) :: Memory.store rest a b

/-- `MemRead(a, 1)` (R41). -/
def Memory.read (m : Memory) (a : Addr) : Byte := Memory.lookup m a.toNat

/-- `MemWrite(a, 1, b)` (R42). -/
def Memory.write (m : Memory) (a : Addr) (b : Byte) : Memory := Memory.store m a.toNat b

/-- The cells from address `lo` up are in canonical form. -/
def Memory.wfFrom : Nat → Memory → Bool
  | _, [] => true
  | lo, (k, b) :: rest =>
    decide (lo ≤ k) && decide (k < Config.memSize) && decide (b ≠ Memory.resetByte k)
      && Memory.wfFrom (k + 1) rest

/-- The canonical form: addresses strictly rising, all of them cells of the 4096-byte memory (R29), no
entry equal to the reset contents of its address. -/
def Memory.wf (m : Memory) : Bool := Memory.wfFrom 0 m

end Sys2Proof.Machine
end

