-- ==== Sys2Proof/Machine/Operands.lean ====
section
/-! DEFINITION. How operands are formed: register operands, widening, 12-bit address formation, the
key a register value selects, decimal digits, pixels (10_state.md R11, R26; 20_memory.md R43;
30_encoding.md R62; 45_keys_timers.md R146). -/

namespace Sys2Proof.Machine

/-- `V[x]` (00_scope.md R8). -/
def State.reg (s : State) (x : Reg) : Byte := s.v.get x

/-- V0, the offset register of `Bnnn` (40_flow.md R83). -/
def regV0 : Reg := 0

/-- VF, the register that flags are written to (R14). -/
def regVF : Reg := 15

/-- `zext_16(nnn)`: an address operand as a 16-bit value (R62). -/
def zextAddr (nnn : Addr) : Word := nnn.setWidth 16

/-- `zext_16(v)`: a register value as a 16-bit value. -/
def zextByte (b : Byte) : Word := b.setWidth 16

/-- `A12(w) = w[11:0]`: the address a 16-bit value forms (R43). -/
def a12 (w : Word) : Addr := w.extractLsb' 0 12

/-- `KeySel`: the key a register value selects, by its low four bits (R146; the spec's decision D6). -/
def keySel (keys : Keys) (b : Byte) : Bool := keys.get (b.extractLsb' 0 4).toFin

/-- The least pressed key, if any is pressed (45_keys_timers.md R142; the spec's decision D7). -/
def leastKey (keys : Keys) : Option (Fin 16) := (List.finRange 16).find? (fun k => keys.get k)

/-- A key number as a register value, 0x00 to 0x0F (R142). -/
def keyByte (k : Fin 16) : Byte := BitVec.ofNat 8 k.val

/-- The decimal digits of a byte, hundreds first (43_index_memory.md R124). -/
def bcdDigits (b : Byte) : List Byte :=
  [BitVec.ofNat 8 (b.toNat / 100), BitVec.ofNat 8 (b.toNat / 10 % 10), BitVec.ofNat 8 (b.toNat % 10)]

/-- `FB[row][col]` (R24). -/
def Framebuffer.cell (fb : Framebuffer) (row : Fin 32) (col : Fin 64) : Bool := (fb.get row).get col

/-- `FB[row][col] <- b` (R24). -/
def Framebuffer.setCell (fb : Framebuffer) (row : Fin 32) (col : Fin 64) (b : Bool) : Framebuffer :=
  fb.set row ((fb.get row).set col b)

/-- `FB[row][col]` of a state. -/
def State.pixel (s : State) (row : Fin 32) (col : Fin 64) : Bool := s.fb.cell row col

/-- The framebuffer row a sprite row lands on: the vertical coordinate wraps (44_display.md R133). -/
def spriteRow (y0 : Byte) (r : Nat) : Fin 32 := Fin.ofNat 32 (y0.toNat + r)

/-- The framebuffer column a sprite column lands on: the horizontal coordinate wraps (R133). -/
def spriteCol (x0 : Byte) (c : Nat) : Fin 64 := Fin.ofNat 64 (x0.toNat + c)

/-- The pixel of a sprite row at column offset `c`: bit 7 is the leftmost (R132). -/
def spriteBit (b : Byte) (c : Nat) : Bool := b.getLsbD (7 - c)

/-- The byte of sprite row `r`: `MemRead(A12(I + r), 1)` (R132, R133). -/
def State.spriteByte (s : State) (r : Nat) : Byte := s.mem.read (a12 (s.index + BitVec.ofNat 16 r))

end Sys2Proof.Machine
end

