-- ==== Sys2Proof/Machine/Flags.lean ====
section
/-! DEFINITION. The flag computations (10_state.md R14; 42_alu.md R107 to R111): which condition sets
VF, and VF as the whole byte 0x00 or 0x01. The collision flag of `Dxyn` is in Machine/Display.lean. -/

namespace Sys2Proof.Machine

/-- The whole byte a flag write puts in VF: "fully overwritten (not merged)" (R14). -/
def flagByte (f : Bool) : Byte := if f then 0x01 else 0x00

/-- Carry out of `8xy4`: the 9-bit sum exceeds 255 (R107). -/
def carryOut (a b : Byte) : Bool := decide (a.toNat + b.toNat > 255)

/-- No borrow in `a - b`: `a >= b` (R108; with the operands exchanged, R110). -/
def noBorrow (a b : Byte) : Bool := decide (a.toNat ≥ b.toNat)

/-- The bit a right shift by one loses: bit 0 (R109). -/
def lostRight (a : Byte) : Bool := a.getLsbD 0

/-- The bit a left shift by one loses: bit 7 (R111). -/
def lostLeft (a : Byte) : Bool := a.getLsbD 7

end Sys2Proof.Machine
end

