-- ==== Sys2Proof/Machine/Ops.lean ====
section
/-! DEFINITION. The named operations over the state that the meanings share: one update per field, the
pc's advance and the skip (10_state.md R16, 41_skip.md R90), push and pop (R20), instruction fetch
(20_memory.md R44), block stores and loads (43_index_memory.md R124 to R126), the flag and result
write (R13), and taking a fault (60_exceptions.md R153). There is no return from a fault (R159). -/

namespace Sys2Proof.Machine

/-- What a step answers. -/
abbrev Result := Host.Outcome State Fault Refusal

/-! ## One update per field -/

/-- `V[x] <- b` (R12: the value is 8 bits wide by its type). -/
def State.setReg (s : State) (x : Reg) (b : Byte) : State := { s with v := s.v.set x b }
/-- All sixteen registers at once. -/
def State.setV (s : State) (v : Vector Byte 16) : State := { s with v := v }
/-- `I <- w`. -/
def State.setIndex (s : State) (w : Word) : State := { s with index := w }
/-- `pc <- w`: never masked (R16). -/
def State.setPc (s : State) (w : Word) : State := { s with pc := w }
/-- The stack's entries and its depth. -/
def State.setStack (s : State) (stack : Vector Word Config.stackDepth)
    (sp : Fin (Config.stackDepth + 1)) : State := { s with stack := stack, sp := sp }
/-- `DT <- b`. -/
def State.setDt (s : State) (b : Byte) : State := { s with dt := b }
/-- `ST <- b`. -/
def State.setSt (s : State) (b : Byte) : State := { s with st := b }
/-- The whole framebuffer. -/
def State.setFb (s : State) (fb : Framebuffer) : State := { s with fb := fb }
/-- The whole input vector. -/
def State.setKeys (s : State) (keys : Keys) : State := { s with keys := keys }
/-- All of memory. -/
def State.setMem (s : State) (mem : Memory) : State := { s with mem := mem }
/-- The FAULT register. -/
def State.setFault (s : State) (f : FaultLatch) : State := { s with fault := f }
/-- `AWAIT_KEY <- b`. -/
def State.setAwaitKey (s : State) (b : Bool) : State := { s with awaitKey := b }
/-- The pulse output. -/
def State.setSoundOffEdge (s : State) (b : Bool) : State := { s with soundOffEdge := b }
/-- The count of drawn bytes. -/
def State.setDraws (s : State) (n : Nat) : State := { s with draws := n }
/-- The mark that a `Step` has happened. -/
def State.setStarted (s : State) (b : Bool) : State := { s with started := b }
/-- The events to come. -/
def State.setAgenda (s : State) (es : List Event) : State := { s with agenda := es }

/-! ## The program counter -/

/-- `pc <- (pc + 2) mod 65536` (R16). -/
def State.advance (s : State) : State := s.setPc (s.pc + 2)

/-- `Skip(cond)` (41_skip.md R90). -/
def State.skip (s : State) (cond : Bool) : State :=
  if cond then s.setPc (s.pc + 4) else s.setPc (s.pc + 2)

/-! ## The call stack -/

/-- `Push(w)` (R20), or nothing where the stack is full. -/
def State.push (s : State) (w : Word) : Option State :=
  if h : s.sp.val < Config.stackDepth then
    some (s.setStack (s.stack.set s.sp.val w h) ⟨s.sp.val + 1, Nat.succ_lt_succ h⟩)
  else none

/-- `Pop()` (R20): the newest entry and the state without it, or nothing where the stack is empty. The
entry itself stays in STACK above SP (40_flow.md R82). -/
def State.pop (s : State) : Option (Word × State) :=
  if h : 0 < s.sp.val then
    some (s.stack.get ⟨s.sp.val - 1, by have := s.sp.isLt; omega⟩,
      s.setStack s.stack ⟨s.sp.val - 1, by have := s.sp.isLt; omega⟩)
  else none

/-! ## Memory -/

/-- `MemRead(a, 2)`: two bytes, the one at the lower address in the high half; the second address
wraps from 0xFFF to 0x000 (R41). -/
def Memory.read2 (m : Memory) (a : Addr) : Word := wordOfBytes (m.read a) (m.read (a + 1))

/-- The word at pc: `MEM[pc[11:0]] :: MEM[(pc + 1)[11:0]]` (R44). Any pc will do, odd or above 0x0FFF. -/
def State.fetch (s : State) : Word := s.mem.read2 (a12 s.pc)

/-- Stores of single bytes at `A12(base)`, `A12(base + 1)`, …, in ascending order, each address masked
on its own (R42, R43). -/
def Memory.writeBytes : Memory → Word → List Byte → Memory
  | m, _, [] => m
  | m, base, b :: bs => Memory.writeBytes (m.write (a12 base) b) (base + 1) bs

/-- `V[i] <- MemRead(A12(base + i), 1)` for `i` in `0 .. count - 1`, ascending (43_index_memory.md R126). -/
def loadBlock (m : Memory) (base : Word) : Nat → Vector Byte 16 → Vector Byte 16
  | 0, v => v
  | k + 1, v => (loadBlock m base k v).setIfInBounds k (m.read (a12 (base + BitVec.ofNat 16 k)))

/-! ## Flag and result -/

/-- The two writes of a flag-writing ALU instruction, flag to VF first and result to Vx second, so that
the result stays where `x` is 0xF (R13; the spec's decision D2). Both values are computed by the
caller from the state before the instruction. -/
def State.writeFlagResult (s : State) (x : Reg) (flag : Bool) (result : Byte) : State :=
  (s.setReg regVF (flagByte flag)).setReg x result

/-! ## Faults -/

/-- `raise K(word, pc)` (60_exceptions.md R153): FAULT is latched and nothing else changes; pc still
addresses the faulting instruction. -/
def State.raise (s : State) (kind : FaultKind) (word : Word) : State := s.setFault ⟨kind, word, s.pc⟩

/-- `FAULT.kind`'s code (R27; the spec's decision D9). -/
def FaultKind.code : FaultKind → BitVec 2
  | .noFault => 0
  | .decodeFailure => 1
  | .stackUnderflow => 2
  | .stackOverflow => 3

/-- The machine is halted while a fault is latched (R155). -/
def State.halted (s : State) : Bool := decide (s.fault.kind ≠ .noFault)

end Sys2Proof.Machine
end

