-- ==== Sys2Proof/Machine/Alu.lean ====
section
/-! DEFINITION. Register loads, the 8-bit ALU and the random byte (42_alu.md). Arithmetic is on 8 bits
and wraps mod 256 (R112); each instruction ends with `pc <- (pc + 2) mod 65536` (R100). -/

namespace Sys2Proof.Machine

/-- `6xnn`, `LD Vx, nn` (R101). -/
def execLdImm (x : Reg) (nn : Byte) (s : State) : Result := .next (s.setReg x nn).advance

/-- `7xnn`, `ADD Vx, nn` (R102): no flag. -/
def execAddImm (x : Reg) (nn : Byte) (s : State) : Result := .next (s.setReg x (s.reg x + nn)).advance

/-- `8xy0`, `LD Vx, Vy` (R103). -/
def execLdReg (x y : Reg) (s : State) : Result := .next (s.setReg x (s.reg y)).advance

/-- `8xy1`, `OR Vx, Vy` (R104): VF is not touched. -/
def execOrReg (x y : Reg) (s : State) : Result := .next (s.setReg x (s.reg x ||| s.reg y)).advance

/-- `8xy2`, `AND Vx, Vy` (R105): VF is not touched. -/
def execAndReg (x y : Reg) (s : State) : Result := .next (s.setReg x (s.reg x &&& s.reg y)).advance

/-- `8xy3`, `XOR Vx, Vy` (R106): VF is not touched. -/
def execXorReg (x y : Reg) (s : State) : Result := .next (s.setReg x (s.reg x ^^^ s.reg y)).advance

/-- `8xy4`, `ADD Vx, Vy` (R107): VF is the carry. -/
def execAddReg (x y : Reg) (s : State) : Result :=
  .next (s.writeFlagResult x (carryOut (s.reg x) (s.reg y)) (s.reg x + s.reg y)).advance

/-- `8xy5`, `SUB Vx, Vy` (R108): VF is "no borrow". -/
def execSubReg (x y : Reg) (s : State) : Result :=
  .next (s.writeFlagResult x (noBorrow (s.reg x) (s.reg y)) (s.reg x - s.reg y)).advance

/-- `8xy6`, `SHR Vx` (R109): VF is the lost bit; the `y` field is ignored (30_encoding.md R71). -/
def execShr (x : Reg) (s : State) : Result :=
  .next (s.writeFlagResult x (lostRight (s.reg x)) (s.reg x >>> 1)).advance

/-- `8xy7`, `SUBN Vx, Vy` (R110): Vy - Vx, VF is "no borrow". -/
def execSubnReg (x y : Reg) (s : State) : Result :=
  .next (s.writeFlagResult x (noBorrow (s.reg y) (s.reg x)) (s.reg y - s.reg x)).advance

/-- `8xyE`, `SHL Vx` (R111): VF is the lost bit; the `y` field is ignored (30_encoding.md R71). -/
def execShl (x : Reg) (s : State) : Result :=
  .next (s.writeFlagResult x (lostLeft (s.reg x)) (s.reg x <<< 1)).advance

/-- `Cxnn` with the byte `r` drawn: `V[x] <- r AND nn`, and the next execution draws afresh (R115). -/
def rndWith (r : Byte) (x : Reg) (nn : Byte) (s : State) : State :=
  ((s.setReg x (r &&& nn)).setDraws (s.draws + 1)).advance

/-- `Cxnn`, `RND Vx, nn` (R115): the byte is the free value of this draw (log entry 1). -/
def execRnd (x : Reg) (nn : Byte) (s : State) : Result :=
  .next (rndWith (Config.randomByte s.draws) x nn s)

end Sys2Proof.Machine
end

