-- ==== Sys2Proof/Machine/Display.lean ====
section
/-! DEFINITION. The framebuffer instructions and the collision detector (44_display.md). -/

namespace Sys2Proof.Machine

/-- A framebuffer all of whose cells are 0. -/
def blankFramebuffer : Framebuffer := Vector.replicate 32 (Vector.replicate 64 false)

/-- `00E0`, `CLS` (R131): VF is not written. -/
def execCls (s : State) : Result := .next (s.setFb blankFramebuffer).advance

/-- A drawing in progress: the cells so far, and whether some cell has gone from on to off. -/
structure Canvas where
  fb : Framebuffer
  hit : Bool
deriving DecidableEq, Repr

/-- One pixel of the draw loop (R133): a 1 bit toggles its cell and collides where the cell was on; a 0
bit leaves its cell alone. -/
def plot (row : Fin 32) (col : Fin 64) (bit : Bool) (c : Canvas) : Canvas :=
  if bit then ⟨c.fb.setCell row col (!c.fb.cell row col), c.hit || c.fb.cell row col⟩ else c

/-- The inner loop of R133 over the first columns of a sprite row, left to right. -/
def plotRow (row : Fin 32) (x0 b : Byte) : Nat → Canvas → Canvas
  | 0, c => c
  | k + 1, c => plot row (spriteCol x0 k) (spriteBit b k) (plotRow row x0 b k c)

/-- The outer loop of R133 over the first rows of a sprite, top to bottom. -/
def plotSprite (s : State) (x0 y0 : Byte) : Nat → Canvas → Canvas
  | 0, c => c
  | k + 1, c => plotRow (spriteRow y0 k) x0 (s.spriteByte k) 8 (plotSprite s x0 y0 k c)

/-- `Dxyn`, `DRW Vx, Vy, n` (R133): draw by exclusive OR with wrap on both axes; VF is the collision.
The coordinates are Vx and Vy before VF is written (the spec's decision D2). -/
def execDrw (x y : Reg) (n : Nat) (s : State) : Result :=
  let c := plotSprite s (s.reg x) (s.reg y) n ⟨s.fb, false⟩
  .next ((s.setFb c.fb).setReg regVF (flagByte c.hit)).advance

end Sys2Proof.Machine
end

