-- ==== Sys2Proof/Machine/Flow.lean ====
section
/-! DEFINITION. Jumps, calls and returns (40_flow.md). -/

namespace Sys2Proof.Machine

/-- `1nnn`, `JP nnn` (R80): `pc <- zext_16(nnn)`. -/
def execJp (nnn : Addr) (s : State) : Result := .next (s.setPc (zextAddr nnn))

/-- `2nnn`, `CALL nnn` (R81): push the address of the call itself, then jump; with 16 entries in use,
StackOverflow (60_exceptions.md R152). -/
def execCall (nnn : Addr) (s : State) : Result :=
  match s.push s.pc with
  | some t => .next (t.setPc (zextAddr nnn))
  | none => .next (s.raise .stackOverflow (encode (.call nnn)))

/-- `00EE`, `RET` (R82): pop, and continue 2 after the popped address; with an empty stack,
StackUnderflow (60_exceptions.md R151). -/
def execRet (s : State) : Result :=
  match s.pop with
  | some (w, t) => .next (t.setPc (w + 2))
  | none => .next (s.raise .stackUnderflow (encode .ret))

/-- `Bnnn`, `JP V0, nnn` (R83): `pc <- zext_16(nnn) + zext_16(V0)`, not masked. -/
def execJpV0 (nnn : Addr) (s : State) : Result :=
  .next (s.setPc (zextAddr nnn + zextByte (s.reg regV0)))

end Sys2Proof.Machine
end

