-- ==== Sys2Proof/Machine/IndexMemory.lean ====
section
/-! DEFINITION. The index register, stores and loads (43_index_memory.md). The address of the k-th byte
is `A12(I + k)`; no instruction here but `Annn`, `Fx1E` and `Fx29` changes `I` (R120). -/

namespace Sys2Proof.Machine

/-- `Annn`, `LD I, nnn` (R121). -/
def execLdI (nnn : Addr) (s : State) : Result := .next (s.setIndex (zextAddr nnn)).advance

/-- `Fx1E`, `ADD I, Vx` (R122): mod 65536 (the spec's decision D5), no flag. -/
def execAddI (x : Reg) (s : State) : Result :=
  .next (s.setIndex (s.index + zextByte (s.reg x))).advance

/-- `Fx29`, `LD F, Vx` (R123): `I <- Vx * 5` with all 8 bits of Vx. -/
def execLdF (x : Reg) (s : State) : Result := .next (s.setIndex (zextByte (s.reg x) * 5)).advance

/-- `Fx33`, `LD B, Vx` (R124): the three decimal digits at `A12(I)`, `A12(I + 1)`, `A12(I + 2)`. -/
def execLdB (x : Reg) (s : State) : Result :=
  .next (s.setMem (s.mem.writeBytes s.index (bcdDigits (s.reg x)))).advance

/-- The bytes `Fx55` stores: V0 to Vx (R125). -/
def State.regBlock (s : State) (x : Reg) : List Byte := s.v.toList.take (x.val + 1)

/-- `Fx55`, `LD [I], Vx` (R125): V0 to Vx at `A12(I)` upward. -/
def execStoreRegs (x : Reg) (s : State) : Result :=
  .next (s.setMem (s.mem.writeBytes s.index (s.regBlock x))).advance

/-- `Fx65`, `LD Vx, [I]` (R126): V0 to Vx from `A12(I)` upward. -/
def execLoadRegs (x : Reg) (s : State) : Result :=
  .next (s.setV (loadBlock s.mem s.index (x.val + 1) s.v)).advance

end Sys2Proof.Machine
end

