-- ==== Sys2Proof/Machine/KeysTimers.lean ====
section
/-! DEFINITION. The keypad and timer instructions (45_keys_timers.md). -/

namespace Sys2Proof.Machine

/-- `Ex9E`, `SKP Vx` (R140). -/
def execSkp (x : Reg) (s : State) : Result := .next (s.skip (keySel s.keys (s.reg x)))

/-- `ExA1`, `SKNP Vx` (R141). -/
def execSknp (x : Reg) (s : State) : Result := .next (s.skip (!keySel s.keys (s.reg x)))

/-- `Fx0A`, `LD Vx, K` (R142): with no key pressed the machine waits, pc held and AWAIT_KEY set; else
Vx takes the least pressed key. -/
def execLdVxK (x : Reg) (s : State) : Result :=
  match leastKey s.keys with
  | none => .next (s.setAwaitKey true)
  | some k => .next ((s.setReg x (keyByte k)).setAwaitKey false).advance

/-- `Fx07`, `LD Vx, DT` (R143). -/
def execLdVxDt (x : Reg) (s : State) : Result := .next (s.setReg x s.dt).advance

/-- `Fx15`, `LD DT, Vx` (R144). -/
def execLdDtVx (x : Reg) (s : State) : Result := .next (s.setDt (s.reg x)).advance

/-- `Fx18`, `LD ST, Vx` (R145): the pulse output is not raised (10_state.md R23). -/
def execLdStVx (x : Reg) (s : State) : Result := .next (s.setSt (s.reg x)).advance

end Sys2Proof.Machine
end

