-- ==== Sys2Proof/Machine/Skips.lean ====
section
/-! DEFINITION. Conditional skips on registers (41_skip.md). -/

namespace Sys2Proof.Machine

/-- `3xnn`, `SE Vx, nn` (R91). -/
def execSeImm (x : Reg) (nn : Byte) (s : State) : Result := .next (s.skip (decide (s.reg x = nn)))

/-- `4xnn`, `SNE Vx, nn` (R92). -/
def execSneImm (x : Reg) (nn : Byte) (s : State) : Result := .next (s.skip (decide (s.reg x ≠ nn)))

/-- `5xy0`, `SE Vx, Vy` (R93). -/
def execSeReg (x y : Reg) (s : State) : Result := .next (s.skip (decide (s.reg x = s.reg y)))

/-- `9xy0`, `SNE Vx, Vy` (R94). -/
def execSneReg (x y : Reg) (s : State) : Result := .next (s.skip (decide (s.reg x ≠ s.reg y)))

end Sys2Proof.Machine
end

