-- ==== Sys2Proof/Machine/Events.lean ====
section
/-! DEFINITION. The events of the three agents (00_scope.md R5, 60_exceptions.md R160 to R169,
70_reset_and_hazards.md R180): each is one atomic change of the state. -/

namespace Sys2Proof.Machine

/-- The start of every event: the pulse output falls, since `sound_off_edge` is 0 after every event
other than a `Tick` that found ST = 1 (R160). -/
def State.quiet (s : State) : State := s.setSoundOffEdge false

/-- A timer counted down by one, never below 0 (R160). -/
def countDown (b : Byte) : Byte := if b.toNat > 0 then b - 1 else b

/-- `Tick` (R160): the pulse is raised exactly when ST goes from 1 to 0; both timers count down. -/
def State.tick (s : State) : State :=
  ((s.setSoundOffEdge (decide (s.st.toNat = 1))).setDt (countDown s.dt)).setSt (countDown s.st)

/-- `SetKeys(k)` (R167): all sixteen flags at once. -/
def State.pressKeys (s : State) (keys : Keys) : State := s.quiet.setKeys keys

/-- `Reset` (R180): the reset state, but for the stack's entries, which are left as they are, and the
model's own count of draws and events to come, which are no state of the machine. -/
def State.resetEvent (s : State) : State :=
  ((State.reset.setStack s.stack 0).setDraws s.draws).setAgenda s.agenda

/-- `Install(bytes)` (R169): an image of at most 3584 bytes at 0x200, before the first `Step`; any other
`Install` is outside the spec and refused. -/
def installImage (bytes : List Byte) (s : State) : Result :=
  if s.started then .refused .installAfterFirstStep
  else if bytes.length > Config.progMax then .refused (.imageTooLong bytes.length)
  else .next (s.quiet.setMem (s.mem.writeBytes Config.progBase bytes))

/-- `Step` where no fault is latched (30_encoding.md R60): fetch, decode, execute; a word that is no
instruction raises DecodeFailure (R154). -/
def fetchDecodeExecute (s : State) : Result :=
  match decode s.fetch with
  | none => .next (s.raise .decodeFailure s.fetch)
  | some i => exec i (s.setAwaitKey false)

/-- `Step` (30_encoding.md R60): a halted machine does nothing (R155). -/
def stepEvent (s : State) : Result :=
  if s.halted then .next (s.quiet.setStarted true)
  else fetchDecodeExecute (s.quiet.setStarted true)

/-- One event. -/
def runEvent (e : Event) (s : State) : Result :=
  match e with
  | .step => stepEvent s
  | .tick => .next s.tick
  | .setKeys keys => .next (s.pressKeys keys)
  | .reset => .next s.resetEvent
  | .install bytes => installImage bytes s

/-- The next event of the agenda; with none there, the Executor's `Step` (log entry 4). -/
def nextEvent (s : State) : Result :=
  match s.agenda with
  | [] => stepEvent s
  | e :: rest => runEvent e (s.setAgenda rest)

/-- The state with the bytes of an opcode-table word where the next step fetches: the two cells at pc,
the agenda empty (so that the next event is a `Step`) and no fault latched (a halted machine fetches
nothing). -/
def placeFetchWord (s : State) (nbits w : Nat) : State :=
  ((s.setMem (s.mem.writeBytes s.pc (tableBytes nbits w))).setAgenda []).setFault ⟨.noFault, 0, 0⟩

end Sys2Proof.Machine
end

