-- ==== Sys2Proof/Machine/Step.lean ====
section
/-! DEFINITION. The step of the machine: the next atomic event (00_scope.md R5). -/

namespace Sys2Proof.Machine

/-- One atomic event: the next one of the agenda, or the Executor's `Step` where the agenda is empty. -/
def step : State → Host.Outcome State Fault Refusal := nextEvent

/-- The state with an opcode-table word stored where the next step fetches its instruction. -/
def State.withFetchWord (s : State) (nbits w : Nat) : State := placeFetchWord s nbits w

end Sys2Proof.Machine
end

