-- ==== Sys2Proof/Machine/Views.lean ====
section
/-! DEFINITION. What the host may read between events (10_state.md R23, R25, R34; 60_exceptions.md
R166, R170, R171). A view is a function of the state, so reading one changes nothing. -/

namespace Sys2Proof.Machine

/-- `sound_active`, the level output: ST is not 0 (R23). -/
def State.soundActive (s : State) : Bool := decide (s.st.toNat ≠ 0)

/-- The flat framebuffer view: 2048 cells in row-major order, element `64 * row + col` (R25). -/
def State.flatView (s : State) : List Bool := (s.fb.toList.map (fun row => row.toList)).flatten

/-- The register view (R34). -/
structure RegisterView where
  v : Vector Byte 16
  index : Word
  pc : Word
  sp : Nat
  dt : Byte
  st : Byte
  fault : FaultLatch
  awaitKey : Bool
  soundActive : Bool
  soundOffEdge : Bool
deriving DecidableEq, Repr

/-- The register view of a state. -/
def State.registerView (s : State) : RegisterView :=
  ⟨s.v, s.index, s.pc, s.sp.val, s.dt, s.st, s.fault, s.awaitKey, s.soundActive, s.soundOffEdge⟩

end Sys2Proof.Machine
end

