-- ==== Sys2Proof/Safety.lean ====
section
/-! DEFINITION. The terms claims use: what a safe run is, what a step leaves unchanged, and the
invariants of the machine. -/

namespace Sys2Proof.Machine

/-! ## Safe runs -/

/-- No fault is latched. "A halted state is not a normal end of a program: a model should treat it as a
failed run" (60_exceptions.md R155). -/
def State.faultFree (s : State) : Prop := s.fault.kind = .noFault

/-- The next `k` events all answer a next state, and no fault is latched in any state on the way: a safe
run of `k` events. -/
def SafeFor : Nat → State → Prop
  | 0, s => s.faultFree
  | k + 1, s => s.faultFree ∧ ∃ t, step s = .next t ∧ SafeFor k t

/-- The convention for the end of a program: pc addresses a `1nnn` that jumps to itself (R173). -/
def State.finished (s : State) : Prop :=
  s.faultFree ∧ ∃ nnn, decode s.fetch = some (.jp nnn) ∧ zextAddr nnn = s.pc

/-! ## Frames -/

/-- The parts of the state, for saying what an event leaves unchanged. -/
inductive Part where
  | regs | index | pc | stack | dt | st | framebuffer | keys | memory | fault | awaitKey
  | soundOffEdge | draws | started | agenda
deriving DecidableEq, Repr

/-- One part is the same in both states. Registers are compared by reading each, the framebuffer cell by
cell, and memory by reading the byte at every address. -/
def SamePart : Part → State → State → Prop
  | .regs, s, t => ∀ r, t.reg r = s.reg r
  | .index, s, t => t.index = s.index
  | .pc, s, t => t.pc = s.pc
  | .stack, s, t => t.stack = s.stack ∧ t.sp = s.sp
  | .dt, s, t => t.dt = s.dt
  | .st, s, t => t.st = s.st
  | .framebuffer, s, t => ∀ row col, t.pixel row col = s.pixel row col
  | .keys, s, t => t.keys = s.keys
  | .memory, s, t => ∀ a, t.mem.read a = s.mem.read a
  | .fault, s, t => t.fault = s.fault
  | .awaitKey, s, t => t.awaitKey = s.awaitKey
  | .soundOffEdge, s, t => t.soundOffEdge = s.soundOffEdge
  | .draws, s, t => t.draws = s.draws
  | .started, s, t => t.started = s.started
  | .agenda, s, t => t.agenda = s.agenda

/-- Every part of the state but the named ones is unchanged from `s` to `t`. -/
def SameExcept (changed : List Part) (s t : State) : Prop := ∀ p, p ∉ changed → SamePart p s t

/-! ## Sprites (44_display.md R132, R133) -/

/-- The sprite of `n` rows at `I`, drawn with its left edge at column `x0` and its top edge at row `y0`,
has a 1 bit that falls on the cell at (`row`, `col`). -/
def SpriteCovers (s : State) (x0 y0 : Byte) (n : Nat) (row : Fin 32) (col : Fin 64) : Prop :=
  ∃ r c : Nat, r < n ∧ c < 8 ∧ row.val = (y0.toNat + r) % 32 ∧ col.val = (x0.toNat + c) % 64 ∧
    (s.mem.read (a12 (s.index + BitVec.ofNat 16 r))).getLsbD (7 - c) = true

/-! ## Invariants -/

/-- Memory is in canonical form. -/
def MemoryCanonical (s : State) : Prop := s.mem.wf = true

/-- FAULT says what stopped the machine: with nothing latched its payload is 0, as after reset; with a
fault latched, its pc is the pc, its word is the word there, and the condition of that fault holds
(60_exceptions.md R150, R153). -/
def FaultLatchTruthful (s : State) : Prop :=
  match s.fault.kind with
  | .noFault => s.fault.word = 0 ∧ s.fault.pc = 0
  | .decodeFailure =>
    s.started = true ∧ s.fault.pc = s.pc ∧ s.fault.word = s.fetch ∧ decode s.fetch = none
  | .stackUnderflow =>
    s.started = true ∧ s.fault.pc = s.pc ∧ s.fault.word = s.fetch ∧
      decode s.fetch = some .ret ∧ s.sp.val = 0
  | .stackOverflow =>
    s.started = true ∧ s.fault.pc = s.pc ∧ s.fault.word = s.fetch ∧
      (∃ nnn, decode s.fetch = some (.call nnn)) ∧ s.sp.val = Config.stackDepth

/-- AWAIT_KEY is set only in the wait state: pc still addresses an `Fx0A`, and no fault is latched
(10_state.md R28, R32; 60_exceptions.md R174). -/
def AwaitKeyMeansWaiting (s : State) : Prop :=
  s.awaitKey = true →
    s.started = true ∧ s.faultFree ∧ ∃ x, decode s.fetch = some (.ldVxK x)

/-- The three invariants together. -/
structure State.Inv (s : State) : Prop where
  memory : MemoryCanonical s
  fault : FaultLatchTruthful s
  awaitKey : AwaitKeyMeansWaiting s

end Sys2Proof.Machine
end

