-- ==== Sys2Proof/Certificates/Slice0/Obligations.lean ====
section
/-! DEFINITION. The statements for the provers. Each docstring names the rule of the spec it formalises;
where a clause rests on one of the spec's own decisions (92_eei_decisions.md D1 to D22) or on a choice of
this model (notes/assumptions), it says so. What pc does where the 16-bit sum wraps is the spec's decision
D3 (10_state.md R16): the clauses below say it of no wrapping sum, and one statement of its own,
`SequentialPcMovesAndWraps`, says it of every instruction. -/

open Sys2Proof Sys2Proof.Machine

namespace Sys2Proof.Claims

/-- The next instruction in sequence: pc is 2 further (at the 16-bit wrap: `SequentialPcMovesAndWraps`). -/
def NextInSequence (s t : State) : Prop := s.pc.toNat + 2 < 65536 → t.pc.toNat = s.pc.toNat + 2

/-- A plain register result: Vx is `value`, every other register and everything else but pc is as before. -/
def WritesOnly (x : Reg) (value : Byte) (s t : State) : Prop :=
  t.reg x = value ∧ (∀ r, r ≠ x → t.reg r = s.reg r) ∧ NextInSequence s t ∧
    SameExcept [.regs, .pc] s t

/-- A flag-writing ALU result: Vx is `result` (for every `x`, 0xF too); VF is 1 or 0 by `flag` unless `x`
names it; every other register and everything else but pc is as before. -/
def WritesResultAndFlag (x : Reg) (result : Nat) (flag : Prop) (s t : State) : Prop :=
  (t.reg x).toNat = result ∧ (x ≠ 15 → (flag → t.reg 15 = 1) ∧ (¬ flag → t.reg 15 = 0)) ∧
    (∀ r, r ≠ x → r ≠ 15 → t.reg r = s.reg r) ∧ NextInSequence s t ∧ SameExcept [.regs, .pc] s t

/-- A skip on `cond`: pc moves by 4 if it holds and by 2 otherwise (at the 16-bit wrap:
`SequentialPcMovesAndWraps`), and nothing else changes. -/
def SkipsOn (cond : Prop) (s t : State) : Prop :=
  (cond → s.pc.toNat + 4 < 65536 → t.pc.toNat = s.pc.toNat + 4) ∧
    (¬ cond → s.pc.toNat + 2 < 65536 → t.pc.toNat = s.pc.toNat + 2) ∧ SameExcept [.pc] s t

/-- The word at pc, from the bytes at `pc[11:0]` and `(pc + 1)[11:0]` (20_memory.md R44). -/
def wordAtPc (s : State) : Word := s.mem.read (a12 s.pc) ++ s.mem.read (a12 (s.pc + 1))

/-- Where a skip on `cond` takes pc, the 16-bit wrap included. -/
def SkipMove (cond : Prop) (s t : State) : Prop :=
  (cond → t.pc.toNat = (s.pc.toNat + 4) % 65536) ∧
    (¬ cond → t.pc.toNat = (s.pc.toNat + 2) % 65536)

/-- `b` is what address `a` holds once `stored 0` to `stored (n - 1)` are stored at `A12(I)` upward: the
byte stored there, or the byte that was there if none is stored there. -/
def HoldsAfterStore (s : State) (n : Nat) (stored : Nat → Byte) (a : Addr) (b : Byte) : Prop :=
  (∀ k, k < n → a = a12 (s.index + BitVec.ofNat 16 k) → b = stored k) ∧
    ((∀ k, k < n → a ≠ a12 (s.index + BitVec.ofNat 16 k)) → b = s.mem.read a)

/-- The word at the pc of `t` is the word after the one at the pc of `s`, as the store left it. -/
def NextWordAfterStore (s t : State) (n : Nat) (stored : Nat → Byte) : Prop :=
  ∃ hi lo, wordAtPc t = hi ++ lo ∧ HoldsAfterStore s n stored (a12 (s.pc + 2)) hi ∧
    HoldsAfterStore s n stored (a12 (s.pc + 3)) lo

/-- The instruction has the encoding `n` and no other: a word decodes to it exactly when it is `n`. -/
def EncodedAs (i : Instr) (n : Nat) : Prop := ∀ w : Word, decode w = some i ↔ w.toNat = n

/-- The machine `s` as the instruction at its pc sees it: the Executor has lowered the pulse output,
noted that a `Step` has happened and cleared AWAIT_KEY. -/
def seenBy (s : State) : State := { s with soundOffEdge := false, started := true, awaitKey := false }

end Sys2Proof.Claims

open Sys2Proof.Claims

/-! ## Encoding -/

/-- 30_encoding.md R61 to R64, R72: every well-formed instruction's word decodes to that instruction, with
every operand at every value. -/
def Obligations.DecodeOfEncodeIsIdentity : Prop :=
  ∀ i : Instr, WellFormed i = true → decode (encode i) = some i

/-- 30_encoding.md R64, R71 (masks of families 0, 5, 9: the spec's decision D15): a word that decodes is the word of its instruction, which is well formed; no
bit of a legal word is dropped. -/
def Obligations.EncodeOfDecodeIsIdentity : Prop :=
  ∀ (w : Word) (i : Instr), decode w = some i → encode i = w ∧ WellFormed i = true

/-- 30_encoding.md R63, R64 (masks of families 0, 5, 9: the spec's decision D15): the decode procedure is
the lookup in the opcode map, and at most one row of the map is selected by a word. -/
def Obligations.DecoderMatchesOpcodeMap : Prop :=
  ∀ w : Word, decode w = decodeByTable w ∧
    (opcodeTable.filter (fun r => r.selectedBy w)).length ≤ 1

/-- 30_encoding.md R67, R68: the words of families 8, E and F by their low digits; every other low digit
is no instruction, and `x` (in family 8 also `y`) takes every value. -/
def Obligations.FamiliesEightEAndFSelectByLowDigits : Prop :=
  ∀ (x y : Reg) (k : Fin 16) (nn : Byte),
    (decode (BitVec.ofNat 16 (0x8000 + 256 * x.val + 16 * y.val + k.val)) =
      match k.val with
      | 0x0 => some (.ldReg x y)
      | 0x1 => some (.orReg x y)
      | 0x2 => some (.andReg x y)
      | 0x3 => some (.xorReg x y)
      | 0x4 => some (.addReg x y)
      | 0x5 => some (.subReg x y)
      | 0x6 => some (.shr x y)
      | 0x7 => some (.subnReg x y)
      | 0xE => some (.shl x y)
      | _ => none) ∧
    (decode (BitVec.ofNat 16 (0xE000 + 256 * x.val + nn.toNat)) =
      match nn.toNat with
      | 0x9E => some (.skp x)
      | 0xA1 => some (.sknp x)
      | _ => none) ∧
    (decode (BitVec.ofNat 16 (0xF000 + 256 * x.val + nn.toNat)) =
      match nn.toNat with
      | 0x07 => some (.ldVxDt x)
      | 0x0A => some (.ldVxK x)
      | 0x15 => some (.ldDtVx x)
      | 0x18 => some (.ldStVx x)
      | 0x1E => some (.addI x)
      | 0x29 => some (.ldF x)
      | 0x33 => some (.ldB x)
      | 0x55 => some (.storeRegs x)
      | 0x65 => some (.loadRegs x)
      | _ => none)

/-- 30_encoding.md R63 (that 0x5AB1 and 0x0000 are illegal: the spec's decision D15): words written out from
the opcode map, one of most families, and what they decode to. -/
def Obligations.WrittenOutWordsDecode : Prop :=
  decode 0x00E0 = some .cls ∧ decode 0x2300 = some (.call 0x300) ∧
  decode 0x332A = some (.seImm 3 0x2A) ∧ decode 0x8ABE = some (.shl 0xA 0xB) ∧
  decode 0xA2F0 = some (.ldI 0x2F0) ∧ decode 0xD015 = some (.drw 0 1 5) ∧
  decode 0xEF9E = some (.skp 0xF) ∧ decode 0xF155 = some (.storeRegs 1) ∧
  decode 0xFFFF = none ∧ decode 0x5AB1 = none ∧ decode 0x0000 = none

/-- 30_encoding.md R72 (the spec's decision D18, naming only): an instruction's assembler line stands for
that instruction. -/
def Obligations.AssemblerLineStandsForItsInstruction : Prop :=
  ∀ i : Instr, assemble (asmLine i) = some i

/-! ## The step -/

/-- 30_encoding.md R60, 20_memory.md R44 (fetch masking: the spec's decision D3; the agenda: log entry 4):
when no fault is latched and the word at pc decodes to `i`, the step whose next event is a `Step` is
`exec i` at the state the instruction sees. -/
def Obligations.StepRunsTheDecodedInstruction : Prop :=
  ∀ (s : State) (i : Instr), s.faultFree → decode (wordAtPc s) = some i →
    (s.agenda = [] → step s = exec i (seenBy s)) ∧
    (∀ rest, s.agenda = .step :: rest → step s = exec i (seenBy { s with agenda := rest }))

/-- Log entry 6 (the model's loader): a word placed where the next step fetches is what the next step
runs. -/
def Obligations.PlacedWordIsTheOneTheNextStepRuns : Prop :=
  ∀ (s : State) (w : Word) (i : Instr), s.mem.wf = true → decode w = some i →
    wordAtPc (s.withFetchWord 16 w.toNat) = w ∧
    step (s.withFetchWord 16 w.toNat) = exec i (seenBy (s.withFetchWord 16 w.toNat))

/-- 60_exceptions.md R153, R154 (latching and precision: the spec's decision D9): a word that is no
instruction latches DecodeFailure with the word and pc, and nothing else of the machine changes. -/
def Obligations.IllegalWordLatchesDecodeFailure : Prop :=
  ∀ s : State, s.agenda = [] → s.faultFree → decode (wordAtPc s) = none →
    ∃ t, step s = .next t ∧ t.fault = ⟨.decodeFailure, wordAtPc s, s.pc⟩ ∧
      t.soundOffEdge = false ∧ t.started = true ∧ SameExcept [.fault, .soundOffEdge, .started] s t

/-- 60_exceptions.md R155 (the spec's decision D10): while a fault is latched a `Step` changes nothing of
the machine (the pulse output falls, as at every event), and `Tick` and `SetKeys` still act and leave the
fault latched. -/
def Obligations.HaltedMachineStillTicksButDoesNotStep : Prop :=
  ∀ s : State, s.fault.kind ≠ .noFault →
    (∃ t, runEvent .step s = .next t ∧ SameExcept [.soundOffEdge, .started] s t) ∧
    (∃ t, runEvent .tick s = .next t ∧ t.fault = s.fault ∧ t.dt.toNat = s.dt.toNat - 1 ∧
      t.st.toNat = s.st.toNat - 1) ∧
    (∀ k, ∃ t, runEvent (.setKeys k) s = .next t ∧ t.fault = s.fault ∧ t.keys = k)

/-- 60_exceptions.md R155 (the spec's decision D10): a halt is for good. Over any number of events with no
`Reset` among them, a machine with a truthful fault latched changes only its timers, its keys, the pulse
output and the model's own marks. -/
def Obligations.HaltIsForGoodWithoutReset : Prop :=
  ∀ (k : Nat) (s t : State), FaultLatchTruthful s → s.fault.kind ≠ .noFault → .reset ∉ s.agenda →
    Host.Core.run Sys2Proof.core k s = .next t →
    SameExcept [.dt, .st, .keys, .soundOffEdge, .started, .agenda] s t

/-- 60_exceptions.md R150, 20_memory.md R40: no instruction ends in anything but a next state; there is no
memory, alignment, arithmetic or index fault. -/
def Obligations.EveryInstructionAnswersANextState : Prop :=
  ∀ (i : Instr) (s : State), ∃ t, exec i s = .next t

/-- 20_memory.md R41: a two-byte read is big-endian and its second address wraps from 0xFFF to 0x000. -/
def Obligations.TwoByteReadIsBigEndian : Prop :=
  ∀ (m : Memory) (a b : Addr), b.toNat = (a.toNat + 1) % 4096 →
    (m.read2 a).toNat = 256 * (m.read a).toNat + (m.read b).toNat

/-- 10_state.md R16 (the spec's decision D3): pc values that differ by a multiple of 4096 fetch the same
word. -/
def Obligations.FetchDependsOnTwelveBitsOfPc : Prop :=
  ∀ (s : State) (w : Word), w.toNat % 4096 = s.pc.toNat % 4096 → ({ s with pc := w }).fetch = s.fetch

/-! ## Jumps, calls and returns -/

/-- 40_flow.md R80: `1nnn` sets pc to `nnn` and changes nothing else. -/
def Obligations.JumpSetsPc : Prop :=
  ∀ (nnn : Addr) (s : State), EncodedAs (.jp nnn) (0x1000 + nnn.toNat) ∧
    ∃ t, exec (.jp nnn) s = .next t ∧ t.pc.toNat = nnn.toNat ∧ SameExcept [.pc] s t

/-- 40_flow.md R83 (no mask on pc: the spec's decision D3): `Bnnn` sets pc to `nnn + V0`, unmasked. -/
def Obligations.OffsetJumpAddsV0 : Prop :=
  ∀ (nnn : Addr) (s : State), ∃ t, exec (.jpV0 nnn) s = .next t ∧
    t.pc.toNat = nnn.toNat + (s.reg 0).toNat ∧ SameExcept [.pc] s t

/-- 40_flow.md R81, 60_exceptions.md R152, R153 (depth: the spec's decision D1; payload and precision of
the fault: D9): a call below the depth pushes its own address and jumps; at the depth it latches
StackOverflow and changes nothing else. -/
def Obligations.CallPushesItsOwnAddressOrOverflows : Prop :=
  ∀ (nnn : Addr) (s : State),
    (s.sp.val < 16 → ∃ t, exec (.call nnn) s = .next t ∧ t.sp.val = s.sp.val + 1 ∧
      (∀ k : Fin 16, t.stack.get k = if k.val = s.sp.val then s.pc else s.stack.get k) ∧
      t.pc.toNat = nnn.toNat ∧ SameExcept [.stack, .pc] s t) ∧
    (s.sp.val = 16 → ∃ t w, exec (.call nnn) s = .next t ∧ w.toNat = 0x2000 + nnn.toNat ∧
      t.fault = ⟨.stackOverflow, w, s.pc⟩ ∧ SameExcept [.fault] s t)

/-- 40_flow.md R82, 60_exceptions.md R151, R153 (payload and precision of the fault: the spec's decision
D9): a return pops the newest entry and continues 2 after it, leaving the entries as they are; with an
empty stack it latches StackUnderflow and changes nothing else. -/
def Obligations.ReturnContinuesAfterTheCallOrUnderflows : Prop :=
  ∀ s : State,
    (∀ k : Fin 16, s.sp.val = k.val + 1 → ∃ t, exec .ret s = .next t ∧ t.sp.val = k.val ∧
      t.stack = s.stack ∧ t.pc.toNat = ((s.stack.get k).toNat + 2) % 65536 ∧
      SameExcept [.stack, .pc] s t) ∧
    (s.sp.val = 0 → ∃ t, exec .ret s = .next t ∧ t.fault = ⟨.stackUnderflow, 0x00EE, s.pc⟩ ∧
      SameExcept [.fault] s t)

/-- 40_flow.md R84: a return that finds the entry a call pushed brings pc to 2 after the call and SP to
what it was before the call. -/
def Obligations.ReturnUndoesTheCall : Prop :=
  ∀ (nnn : Addr) (s t u w : State) (k : Fin 16), s.sp.val = k.val → exec (.call nnn) s = .next t →
    u.sp = t.sp → u.stack.get k = t.stack.get k → exec .ret u = .next w →
    w.sp = s.sp ∧ w.pc.toNat = (s.pc.toNat + 2) % 65536

/-! ## Skips -/

/-- 41_skip.md R91 to R95 (that no `5xy0` or `9xy0` has a low nibble other than 0, 30_encoding.md R66: the
spec's decision D15, log entry 21): the four register skips; of `3xnn` and `4xnn`, and of `5xy0` and `9xy0`, exactly
one skips. -/
def Obligations.RegisterSkipsTestWholeRegisters : Prop :=
  ∀ (x y : Reg) (nn : Byte) (s : State),
    EncodedAs (.seImm x nn) (0x3000 + 256 * x.val + nn.toNat) ∧
    EncodedAs (.sneImm x nn) (0x4000 + 256 * x.val + nn.toNat) ∧
    EncodedAs (.seReg x y) (0x5000 + 256 * x.val + 16 * y.val) ∧
    EncodedAs (.sneReg x y) (0x9000 + 256 * x.val + 16 * y.val) ∧
    (∃ t, exec (.seImm x nn) s = .next t ∧ SkipsOn ((s.reg x).toNat = nn.toNat) s t) ∧
    (∃ t, exec (.sneImm x nn) s = .next t ∧ SkipsOn ((s.reg x).toNat ≠ nn.toNat) s t) ∧
    (∃ t, exec (.seReg x y) s = .next t ∧ SkipsOn ((s.reg x).toNat = (s.reg y).toNat) s t) ∧
    (∃ t, exec (.sneReg x y) s = .next t ∧ SkipsOn ((s.reg x).toNat ≠ (s.reg y).toNat) s t)

/-- 45_keys_timers.md R140, R141, R146 (the key a value above 15 selects: the spec's decision D6): the two
key skips test the key that the low four bits of Vx name. -/
def Obligations.KeySkipsTestTheNamedKey : Prop :=
  ∀ (x : Reg) (k : Fin 16) (s : State), (s.reg x).toNat % 16 = k.val →
    (∃ t, exec (.skp x) s = .next t ∧ SkipsOn (s.keys.get k = true) s t) ∧
    (∃ t, exec (.sknp x) s = .next t ∧ SkipsOn (s.keys.get k = false) s t)

/-! ## Register loads, the ALU, the random byte -/

/-- 42_alu.md R101, R102, R103: loads and the flagless add. -/
def Obligations.LoadsAndImmediateAddWriteOnlyVx : Prop :=
  ∀ (x y : Reg) (nn : Byte) (s : State),
    EncodedAs (.ldImm x nn) (0x6000 + 256 * x.val + nn.toNat) ∧
    EncodedAs (.addImm x nn) (0x7000 + 256 * x.val + nn.toNat) ∧
    EncodedAs (.ldReg x y) (0x8000 + 256 * x.val + 16 * y.val) ∧
    (∃ t, exec (.ldImm x nn) s = .next t ∧ WritesOnly x nn s t) ∧
    (∃ t, exec (.addImm x nn) s = .next t ∧
      WritesOnly x (BitVec.ofNat 8 (((s.reg x).toNat + nn.toNat) % 256)) s t) ∧
    (∃ t, exec (.ldReg x y) s = .next t ∧ WritesOnly x (s.reg y) s t)

/-- 42_alu.md R104, R105, R106: the three logic operations, bit by bit; VF is not touched (unless it is
Vx). -/
def Obligations.LogicWorksBitByBit : Prop :=
  ∀ (x y : Reg) (s : State),
    EncodedAs (.orReg x y) (0x8001 + 256 * x.val + 16 * y.val) ∧
    EncodedAs (.andReg x y) (0x8002 + 256 * x.val + 16 * y.val) ∧
    EncodedAs (.xorReg x y) (0x8003 + 256 * x.val + 16 * y.val) ∧
    (∃ t r, exec (.orReg x y) s = .next t ∧ WritesOnly x r s t ∧
      ∀ k, k < 8 → r.getLsbD k = ((s.reg x).getLsbD k || (s.reg y).getLsbD k)) ∧
    (∃ t r, exec (.andReg x y) s = .next t ∧ WritesOnly x r s t ∧
      ∀ k, k < 8 → r.getLsbD k = ((s.reg x).getLsbD k && (s.reg y).getLsbD k)) ∧
    (∃ t r, exec (.xorReg x y) s = .next t ∧ WritesOnly x r s t ∧
      ∀ k, k < 8 → r.getLsbD k = ((s.reg x).getLsbD k ^^ (s.reg y).getLsbD k))

/-- 42_alu.md R107 to R111, R114, 10_state.md R13 (operands read first, the result written last: the
spec's decision D2): result and flag of the five flag-writing instructions, for every `x` and `y`. -/
def Obligations.FlagWritingAluResultAndFlag : Prop :=
  ∀ (x y : Reg) (s : State),
    (∃ t, exec (.addReg x y) s = .next t ∧
      WritesResultAndFlag x (((s.reg x).toNat + (s.reg y).toNat) % 256)
        ((s.reg x).toNat + (s.reg y).toNat > 255) s t) ∧
    (∃ t, exec (.subReg x y) s = .next t ∧
      WritesResultAndFlag x (((s.reg x).toNat + 256 - (s.reg y).toNat) % 256)
        ((s.reg x).toNat ≥ (s.reg y).toNat) s t) ∧
    (∃ t, exec (.shr x y) s = .next t ∧
      WritesResultAndFlag x ((s.reg x).toNat / 2) ((s.reg x).toNat % 2 = 1) s t) ∧
    (∃ t, exec (.subnReg x y) s = .next t ∧
      WritesResultAndFlag x (((s.reg y).toNat + 256 - (s.reg x).toNat) % 256)
        ((s.reg y).toNat ≥ (s.reg x).toNat) s t) ∧
    (∃ t, exec (.shl x y) s = .next t ∧
      WritesResultAndFlag x (2 * (s.reg x).toNat % 256) ((s.reg x).toNat ≥ 128) s t)

/-- 42_alu.md R115 (the draw is an unconstrained input: the spec's decision D16; its form here: log entry
1): Vx is the drawn byte AND `nn`, the bits outside `nn` are 0, and the next `Cxnn` draws afresh. True of
every stream of draws. -/
def Obligations.RandomByteIsMaskedAndDrawnAfresh : Prop :=
  ∀ (x : Reg) (nn : Byte) (s : State), ∃ t, exec (.rnd x nn) s = .next t ∧
    t.reg x = Config.randomByte s.draws &&& nn ∧
    (∀ k, nn.getLsbD k = false → (t.reg x).getLsbD k = false) ∧
    (∀ r, r ≠ x → t.reg r = s.reg r) ∧ t.draws = s.draws + 1 ∧ NextInSequence s t ∧
    SameExcept [.regs, .draws, .pc] s t

/-- 10_state.md R14: who writes VF. An instruction that is none of the six flag writers and whose
destination is not VF leaves VF alone; the five ALU flag writers with another destination, and `Dxyn`,
leave 0 or 1 there. -/
def Obligations.OnlyFlagWritersAndDestinationsTouchVF : Prop :=
  ∀ (i : Instr) (s t : State), exec i s = .next t →
    match i with
    | .addReg x _ | .subReg x _ | .shr x _ | .subnReg x _ | .shl x _ =>
      x ≠ 15 → t.reg 15 = 0 ∨ t.reg 15 = 1
    | .drw _ _ n => n < 16 → t.reg 15 = 0 ∨ t.reg 15 = 1
    | .ldImm x _ | .addImm x _ | .ldReg x _ | .orReg x _ | .andReg x _ | .xorReg x _ | .rnd x _
    | .ldVxDt x | .ldVxK x | .loadRegs x => x ≠ 15 → t.reg 15 = s.reg 15
    | .cls | .ret | .jp _ | .call _ | .seImm _ _ | .sneImm _ _ | .seReg _ _ | .sneReg _ _ | .ldI _
    | .jpV0 _ | .skp _ | .sknp _ | .ldDtVx _ | .ldStVx _ | .addI _ | .ldF _ | .ldB _
    | .storeRegs _ => t.reg 15 = s.reg 15

/-! ## The index register, stores and loads -/

/-- 43_index_memory.md R121, R123: `Annn` and `Fx29` set I; all 8 bits of Vx count. -/
def Obligations.IndexLoadsSetI : Prop :=
  ∀ (nnn : Addr) (x : Reg) (s : State),
    EncodedAs (.ldI nnn) (0xA000 + nnn.toNat) ∧ EncodedAs (.ldF x) (0xF029 + 256 * x.val) ∧
    (∃ t, exec (.ldI nnn) s = .next t ∧ t.index.toNat = nnn.toNat ∧ NextInSequence s t ∧
      SameExcept [.index, .pc] s t) ∧
    (∃ t, exec (.ldF x) s = .next t ∧ t.index.toNat = (s.reg x).toNat * 5 ∧ NextInSequence s t ∧
      SameExcept [.index, .pc] s t)

/-- 43_index_memory.md R122 (the wrap at 65536: the spec's decision D5): `Fx1E` adds Vx to I, and no flag
is written. -/
def Obligations.AddToIndexWrapsAtSixteenBits : Prop :=
  ∀ (x : Reg) (s : State), ∃ t, exec (.addI x) s = .next t ∧
    t.index.toNat = (s.index.toNat + (s.reg x).toNat) % 65536 ∧ NextInSequence s t ∧
    SameExcept [.index, .pc] s t

/-- 43_index_memory.md R124: `Fx33` stores the decimal digits of Vx at `A12(I)`, `A12(I + 1)`,
`A12(I + 2)` and changes no other byte. -/
def Obligations.BcdStoresThreeDigitsAtI : Prop :=
  ∀ (x : Reg) (s : State), MemoryCanonical s → EncodedAs (.ldB x) (0xF033 + 256 * x.val) ∧
    ∃ t, exec (.ldB x) s = .next t ∧
    (t.mem.read (a12 s.index)).toNat = (s.reg x).toNat / 100 ∧
    (t.mem.read (a12 (s.index + 1))).toNat = (s.reg x).toNat / 10 % 10 ∧
    (t.mem.read (a12 (s.index + 2))).toNat = (s.reg x).toNat % 10 ∧
    (∀ a, a ≠ a12 s.index → a ≠ a12 (s.index + 1) → a ≠ a12 (s.index + 2) →
      t.mem.read a = s.mem.read a) ∧
    NextInSequence s t ∧ SameExcept [.memory, .pc] s t

/-- 43_index_memory.md R125: `Fx55` stores V0 to Vx at `A12(I)` upward, each address masked on its own,
and changes no other byte; I is unchanged. -/
def Obligations.BlockStoreWritesV0ToVxAtI : Prop :=
  ∀ (x : Reg) (s : State), MemoryCanonical s → EncodedAs (.storeRegs x) (0xF055 + 256 * x.val) ∧
    ∃ t, exec (.storeRegs x) s = .next t ∧
    (∀ r : Reg, r ≤ x → t.mem.read (a12 (s.index + BitVec.ofNat 16 r.val)) = s.reg r) ∧
    (∀ a, (∀ r : Reg, r ≤ x → a ≠ a12 (s.index + BitVec.ofNat 16 r.val)) →
      t.mem.read a = s.mem.read a) ∧
    NextInSequence s t ∧ SameExcept [.memory, .pc] s t

/-- 43_index_memory.md R126: `Fx65` loads V0 to Vx from `A12(I)` upward; the registers above Vx, I and
memory are unchanged. -/
def Obligations.BlockLoadReadsV0ToVxAtI : Prop :=
  ∀ (x : Reg) (s : State), EncodedAs (.loadRegs x) (0xF065 + 256 * x.val) ∧
    ∃ t, exec (.loadRegs x) s = .next t ∧
    (∀ r : Reg, r ≤ x → t.reg r = s.mem.read (a12 (s.index + BitVec.ofNat 16 r.val))) ∧
    (∀ r : Reg, x < r → t.reg r = s.reg r) ∧ NextInSequence s t ∧ SameExcept [.regs, .pc] s t

/-- 43_index_memory.md R127: what `Fx55` stored, `Fx65` loads back, wrap-around included. -/
def Obligations.StoreThenLoadRecoversRegisters : Prop :=
  ∀ (x : Reg) (s t u w : State), MemoryCanonical s → exec (.storeRegs x) s = .next t →
    u.index = s.index →
    (∀ r : Reg, r ≤ x → u.mem.read (a12 (s.index + BitVec.ofNat 16 r.val)) =
      t.mem.read (a12 (s.index + BitVec.ofNat 16 r.val))) →
    exec (.loadRegs x) u = .next w → ∀ r : Reg, r ≤ x → w.reg r = s.reg r

/-- 20_memory.md R54 (fetch masking and the wrap of pc: the spec's decision D3): after `Fx55` and after
`Fx33`, wherever their bytes fall, the very next fetch sees the instruction that follows as the store left
it. -/
def Obligations.StoreIsSeenByTheNextFetch : Prop :=
  ∀ (x : Reg) (s t : State), MemoryCanonical s →
    (exec (.storeRegs x) s = .next t →
      NextWordAfterStore s t (x.val + 1) (fun k => s.reg (Fin.ofNat 16 k))) ∧
    (exec (.ldB x) s = .next t →
      NextWordAfterStore s t 3 (fun k => BitVec.ofNat 8
        (match k with
          | 0 => (s.reg x).toNat / 100
          | 1 => (s.reg x).toNat / 10 % 10
          | _ => (s.reg x).toNat % 10)))

/-- 20_memory.md R29, R47, R56: only `Fx33` and `Fx55` write memory. -/
def Obligations.OnlyTheTwoStoresWriteMemory : Prop :=
  ∀ (i : Instr) (s t : State), (∀ x, i ≠ .ldB x) → (∀ x, i ≠ .storeRegs x) → exec i s = .next t →
    ∀ a, t.mem.read a = s.mem.read a

/-- Log entry 7 (the model's form of memory): canonical memories that read alike at every address are the
same data. -/
def Obligations.CanonicalMemoriesThatReadAlikeAreEqual : Prop :=
  ∀ m m' : Memory, m.wf = true → m'.wf = true → (∀ a, m.read a = m'.read a) → m = m'

/-! ## The framebuffer -/

/-- 44_display.md R131 (that no word but 0x00E0 is a `00E0`, 30_encoding.md R65: the spec's decision D15,
log entry 21): `00E0` turns every cell off and writes no register. -/
def Obligations.ClearScreenTurnsEveryCellOff : Prop :=
  ∀ s : State, EncodedAs .cls 0x00E0 ∧ ∃ t, exec .cls s = .next t ∧
    (∀ row col, t.pixel row col = false) ∧
    NextInSequence s t ∧ SameExcept [.framebuffer, .pc] s t

/-- 44_display.md R132, R133 (coordinates read before VF is written: the spec's decision D2): exactly the
cells under a 1 bit are toggled, with wrap on both axes, and VF is 1 exactly when one of them was on. -/
def Obligations.DrawTogglesCoveredCellsAndReportsCollision : Prop :=
  ∀ (x y : Reg) (n : Nat) (s : State), WellFormed (.drw x y n) = true →
    ∃ t, exec (.drw x y n) s = .next t ∧
      (∀ row col,
        (SpriteCovers s (s.reg x) (s.reg y) n row col → t.pixel row col = !s.pixel row col) ∧
        (¬ SpriteCovers s (s.reg x) (s.reg y) n row col → t.pixel row col = s.pixel row col)) ∧
      ((∃ row col, SpriteCovers s (s.reg x) (s.reg y) n row col ∧ s.pixel row col = true) →
        t.reg 15 = 1) ∧
      (¬ (∃ row col, SpriteCovers s (s.reg x) (s.reg y) n row col ∧ s.pixel row col = true) →
        t.reg 15 = 0) ∧
      (∀ r, r ≠ 15 → t.reg r = s.reg r) ∧ NextInSequence s t ∧
      SameExcept [.regs, .framebuffer, .pc] s t

/-- 44_display.md R134, with the condition of 90_conflicts.md C9: drawing the same sprite at the same
place twice restores the framebuffer; after the second draw VF is 1 exactly when the first left a sprite
cell on, and, from sprite cells that were all off, exactly when the sprite is not all zero. -/
def Obligations.DrawingTwiceRestoresTheFramebuffer : Prop :=
  ∀ (x y : Reg) (n : Nat) (s t u w : State), WellFormed (.drw x y n) = true →
    exec (.drw x y n) s = .next t → (∀ row col, u.pixel row col = t.pixel row col) →
    u.reg x = s.reg x → u.reg y = s.reg y → u.index = s.index →
    (∀ r, r < n → u.mem.read (a12 (s.index + BitVec.ofNat 16 r)) =
      s.mem.read (a12 (s.index + BitVec.ofNat 16 r))) →
    exec (.drw x y n) u = .next w →
    (∀ row col, w.pixel row col = s.pixel row col) ∧
    (w.reg 15 = 1 ↔
      ∃ row col, SpriteCovers s (s.reg x) (s.reg y) n row col ∧ t.pixel row col = true) ∧
    ((∀ row col, SpriteCovers s (s.reg x) (s.reg y) n row col → s.pixel row col = false) →
      (w.reg 15 = 1 ↔ ∃ r, r < n ∧ s.mem.read (a12 (s.index + BitVec.ofNat 16 r)) ≠ 0))

/-- 44_display.md R135: at Vx = 60 a row byte 0xFF toggles columns 60 to 63 and 0 to 3 of its one row, and
a one-row sprite no other row; at Vy = 30 with four rows exactly the rows 30, 31, 0, 1 can change, each in
the columns `(Vx + c) mod 64` of its 1 bits. -/
def Obligations.DrawWrapsOnBothAxes : Prop :=
  ∀ (x y : Reg) (n : Nat) (s t : State), WellFormed (.drw x y n) = true →
    exec (.drw x y n) s = .next t →
    ((s.reg x).toNat = 60 → ∀ r, r < n →
      s.mem.read (a12 (s.index + BitVec.ofNat 16 r)) = 0xFF →
      ∀ row : Fin 32, row.val = ((s.reg y).toNat + r) % 32 →
        (∀ col, t.pixel row col ≠ s.pixel row col ↔ 60 ≤ col.val ∨ col.val ≤ 3) ∧
        (n = 1 → ∀ row' col, row' ≠ row → t.pixel row' col = s.pixel row' col)) ∧
    ((s.reg y).toNat = 30 → n = 4 →
      (∀ (row : Fin 32) (col : Fin 64), row.val ∉ [30, 31, 0, 1] →
        t.pixel row col = s.pixel row col) ∧
      (∀ r, r < 4 → ∀ (row : Fin 32) (col : Fin 64), row.val = (30 + r) % 32 →
        (t.pixel row col ≠ s.pixel row col ↔
          ∃ c, c < 8 ∧ col.val = ((s.reg x).toNat + c) % 64 ∧
            (s.mem.read (a12 (s.index + BitVec.ofNat 16 r))).getLsbD (7 - c) = true)))

/-- 10_state.md R24, 44_display.md R130 (of the instructions): the framebuffer is "mutated only by the clear-screen and
draw-sprite operations". -/
def Obligations.OnlyClearAndDrawWriteTheFramebuffer : Prop :=
  ∀ (i : Instr) (s t : State), i ≠ .cls → (∀ x y n, i ≠ .drw x y n) → exec i s = .next t →
    ∀ row col, t.pixel row col = s.pixel row col

/-- 10_state.md R25: the flat view has 2048 elements, and element `64 * row + col` is `FB[row][col]`. -/
def Obligations.FlatViewIsRowMajor : Prop :=
  ∀ s : State, s.flatView.length = 2048 ∧
    ∀ (row : Fin 32) (col : Fin 64), s.flatView[64 * row.val + col.val]? = some (s.pixel row col)

/-! ## Keys and timers -/

/-- 45_keys_timers.md R142 (the least key: the spec's decision D7; the flag AWAIT_KEY: D8): with no key
pressed `Fx0A` only sets AWAIT_KEY; with a key pressed Vx takes the least one, and the wait is over. -/
def Obligations.WaitForKeyHoldsPcUntilAKeyIsPressed : Prop :=
  ∀ (x : Reg) (s : State),
    ((∀ k, s.keys.get k = false) → ∃ t, exec (.ldVxK x) s = .next t ∧ t.awaitKey = true ∧
      SameExcept [.awaitKey] s t) ∧
    (∀ k : Fin 16, s.keys.get k = true → (∀ j, j < k → s.keys.get j = false) →
      ∃ t, exec (.ldVxK x) s = .next t ∧ (t.reg x).toNat = k.val ∧
        (∀ r, r ≠ x → t.reg r = s.reg r) ∧ t.awaitKey = false ∧ NextInSequence s t ∧
        SameExcept [.regs, .awaitKey, .pc] s t)

/-- 45_keys_timers.md R143, R144: reading and setting the delay timer. -/
def Obligations.DelayTimerIsReadAndSet : Prop :=
  ∀ (x : Reg) (s : State),
    EncodedAs (.ldVxDt x) (0xF007 + 256 * x.val) ∧ EncodedAs (.ldDtVx x) (0xF015 + 256 * x.val) ∧
    (∃ t, exec (.ldVxDt x) s = .next t ∧ WritesOnly x s.dt s t) ∧
    (∃ t, exec (.ldDtVx x) s = .next t ∧ t.dt = s.reg x ∧ NextInSequence s t ∧
      SameExcept [.dt, .pc] s t)

/-- 45_keys_timers.md R145, 10_state.md R23 (the two outputs: the spec's decision D19): `Fx18` sets ST,
`sound_active` follows, and the pulse output is not raised. -/
def Obligations.SoundTimerIsSetWithoutAPulse : Prop :=
  ∀ (x : Reg) (s : State), ∃ t, exec (.ldStVx x) s = .next t ∧ t.st = s.reg x ∧
    (t.soundActive = true ↔ s.reg x ≠ 0) ∧ t.soundOffEdge = s.soundOffEdge ∧ NextInSequence s t ∧
    SameExcept [.st, .pc] s t

/-- 60_exceptions.md R160 (the outputs: the spec's decision D19): a `Tick` counts both timers down, not
below 0, pulses exactly when it takes ST from 1 to 0, and touches nothing else. -/
def Obligations.TickCountsBothTimersDown : Prop :=
  ∀ (s : State) (rest : List Event), s.agenda = .tick :: rest → ∃ t, step s = .next t ∧
    t.dt.toNat = s.dt.toNat - 1 ∧ t.st.toNat = s.st.toNat - 1 ∧
    (t.soundOffEdge = true ↔ s.st.toNat = 1) ∧ t.agenda = rest ∧
    SameExcept [.dt, .st, .soundOffEdge, .agenda] s t

/-- 60_exceptions.md R161: after `k` ticks a timer is its value less `k`, not below 0; between ticks
nothing but `Fx15` (`Fx18`), or a `Reset`, changes DT (ST); setting or reading one timer never affects the
other. -/
def Obligations.TimersReachZeroAndStay : Prop :=
  (∀ (k : Nat) (s : State) (rest : List Event), s.agenda = List.replicate k .tick ++ rest →
    ∃ t, Host.Core.run Sys2Proof.core k s = .next t ∧ t.dt.toNat = s.dt.toNat - k ∧
      t.st.toNat = s.st.toNat - k) ∧
  (∀ (e : Event) (s t : State), e ≠ .tick → e ≠ .reset → runEvent e s = .next t →
    ((e = .step → ∀ x, decode s.fetch ≠ some (.ldDtVx x)) → t.dt = s.dt) ∧
    ((e = .step → ∀ x, decode s.fetch ≠ some (.ldStVx x)) → t.st = s.st)) ∧
  (∀ (x : Reg) (s t : State), (exec (.ldDtVx x) s = .next t → t.st = s.st) ∧
    (exec (.ldStVx x) s = .next t → t.dt = s.dt) ∧
    (exec (.ldVxDt x) s = .next t → t.dt = s.dt ∧ t.st = s.st))

/-- 60_exceptions.md R167: `SetKeys` replaces all sixteen flags at once and nothing else of the machine
(the pulse output falls, R160), and the machine never changes KEYS by itself. -/
def Obligations.SetKeysReplacesTheWholeVector : Prop :=
  (∀ (s : State) (k : Keys) (rest : List Event), s.agenda = .setKeys k :: rest →
    ∃ t, step s = .next t ∧ (∀ j, t.keys.get j = k.get j) ∧ t.agenda = rest ∧
      SameExcept [.keys, .soundOffEdge, .agenda] s t) ∧
  (∀ (i : Instr) (s t : State), exec i s = .next t → t.keys = s.keys) ∧
  (∀ s t : State, (runEvent .step s = .next t ∨ runEvent .tick s = .next t) → t.keys = s.keys)

/-- 60_exceptions.md R158, R160, R167: nothing asynchronous disturbs an instruction. A `Tick` before or
after an instruction that reads and writes no timer comes to the same, and so does a new input vector
before or after an instruction that reads no key. -/
def Obligations.TicksAndKeysCommuteWithOtherInstructions : Prop :=
  ∀ (i : Instr) (s t : State), exec i s = .next t →
    ((∀ x, i ≠ .ldVxDt x) → (∀ x, i ≠ .ldDtVx x) → (∀ x, i ≠ .ldStVx x) →
      exec i s.tick = .next t.tick) ∧
    ((∀ x, i ≠ .skp x) → (∀ x, i ≠ .sknp x) → (∀ x, i ≠ .ldVxK x) →
      ∀ k, exec i (s.pressKeys k) = .next (t.pressKeys k))

/-! ## Reset, installing, running -/

/-- 10_state.md R33, 70_reset_and_hazards.md R180 (V, I: the spec's decision D11; FAULT, AWAIT_KEY: D9, D8;
font bytes: D12; stack entries: log entry 2): the state after reset. -/
def Obligations.ResetStateValues : Prop :=
  let s := State.reset
  (∀ a : Addr, s.mem.read a = if a.toNat < 80 then Config.font.getD a.toNat 0 else 0) ∧
  (∀ r, s.reg r = 0) ∧ s.index = 0 ∧ s.pc = 0x200 ∧ s.sp.val = 0 ∧ s.dt = 0 ∧ s.st = 0 ∧
  (∀ row col, s.pixel row col = false) ∧ (∀ k, s.keys.get k = false) ∧
  s.fault = ⟨.noFault, 0, 0⟩ ∧ s.awaitKey = false ∧ s.soundActive = false ∧ s.soundOffEdge = false

/-- 70_reset_and_hazards.md R180, R182 (the spec's decision D11): `Reset` brings the reset state from
every state, a faulted one too; only the stack's entries stay as they are. -/
def Obligations.ResetEventRestoresTheResetState : Prop :=
  ∀ (s : State) (rest : List Event), s.agenda = .reset :: rest → ∃ t, step s = .next t ∧
    t.stack = s.stack ∧ t.sp.val = 0 ∧ t.draws = s.draws ∧ t.agenda = rest ∧ t.started = false ∧
    SameExcept [.stack, .draws, .agenda, .started] State.reset t

/-- 60_exceptions.md R169 (what is refused: the spec's decision D13): before the first `Step` an image of
at most 3584 bytes is stored verbatim from 0x200, and nothing else changes but the pulse output; a longer
one, or one after the first `Step`, is refused. -/
def Obligations.InstallStoresTheImageVerbatim : Prop :=
  ∀ (s : State) (image : List Byte), MemoryCanonical s →
    (s.started = false → image.length ≤ 3584 → ∃ t, runEvent (.install image) s = .next t ∧
      (∀ (a : Addr) (b : Byte), image[a.toNat - 0x200]? = some b → 0x200 ≤ a.toNat →
        t.mem.read a = b) ∧
      (∀ a : Addr, a.toNat < 0x200 ∨ 0x200 + image.length ≤ a.toNat →
        t.mem.read a = s.mem.read a) ∧
      SameExcept [.memory, .soundOffEdge] s t) ∧
    (s.started = false → 3584 < image.length →
      runEvent (.install image) s = .refused (.imageTooLong image.length)) ∧
    (s.started = true → runEvent (.install image) s = .refused .installAfterFirstStep)

/-- 60_exceptions.md R173 (a convention: the spec's decision D22): once pc rests on a jump to itself, a
`Step` changes nothing but AWAIT_KEY (set to 0), and the program stays finished. -/
def Obligations.FinishedProgramStaysFinished : Prop :=
  ∀ s : State, s.agenda = [] → s.finished → ∃ t, step s = .next t ∧ t.awaitKey = false ∧ t.finished ∧
    SameExcept [.awaitKey, .soundOffEdge, .started] s t

/-- 10_state.md R20, R27, 60_exceptions.md R150: only `2nnn` and `00EE` move the stack or raise a fault
when they execute. -/
def Obligations.OnlyCallAndReturnTouchStackAndFault : Prop :=
  ∀ (i : Instr) (s t : State), i ≠ .ret → (∀ nnn, i ≠ .call nnn) → exec i s = .next t →
    t.stack = s.stack ∧ t.sp = s.sp ∧ t.fault = s.fault

/-- 10_state.md R16, R17, 41_skip.md R90 (the wrap at 65536: the spec's decision D3; no alignment check: D4;
the key a value above 15 selects: D6): every instruction but the jumps, calls and returns moves pc by 2 mod
65536, but for a skip whose condition holds, which moves it by 4 mod 65536, and a waiting `Fx0A`, which does
not move it; so pc stays even or odd as it was. -/
def Obligations.SequentialPcMovesAndWraps : Prop :=
  ∀ (i : Instr) (s t : State), i ≠ .ret → (∀ nnn, i ≠ .call nnn) → (∀ nnn, i ≠ .jp nnn) →
    (∀ nnn, i ≠ .jpV0 nnn) → exec i s = .next t →
    (match i with
      | .seImm x nn => SkipMove ((s.reg x).toNat = nn.toNat) s t
      | .sneImm x nn => SkipMove ((s.reg x).toNat ≠ nn.toNat) s t
      | .seReg x y => SkipMove ((s.reg x).toNat = (s.reg y).toNat) s t
      | .sneReg x y => SkipMove ((s.reg x).toNat ≠ (s.reg y).toNat) s t
      | .skp x => ∀ k : Fin 16, (s.reg x).toNat % 16 = k.val → SkipMove (s.keys.get k = true) s t
      | .sknp x => ∀ k : Fin 16, (s.reg x).toNat % 16 = k.val → SkipMove (s.keys.get k = false) s t
      | .ldVxK _ =>
        (t.awaitKey = true → t.pc = s.pc) ∧
          (t.awaitKey = false → t.pc.toNat = (s.pc.toNat + 2) % 65536)
      | _ => t.pc.toNat = (s.pc.toNat + 2) % 65536) ∧
    t.pc.toNat % 2 = s.pc.toNat % 2

/-! ## Invariants -/

/-- Log entry 7, 20_memory.md R40: every event, from every state with canonical memory, leaves memory
canonical: only cells of the 4096-byte memory are ever listed. -/
def Obligations.EveryStepKeepsMemoryCanonical : Prop :=
  ∀ s t : State, MemoryCanonical s → step s = .next t → MemoryCanonical t

/-- 60_exceptions.md R150, R153, R155 (the spec's decisions D9, D10): every event keeps FAULT truthful: it
is clear, or its pc is the pc, its word the word there, and its condition holds. -/
def Obligations.EveryStepKeepsFaultLatchTruthful : Prop :=
  ∀ s t : State, FaultLatchTruthful s → step s = .next t → FaultLatchTruthful t

/-- 10_state.md R28, R32, 60_exceptions.md R174 (the spec's decision D8): every event keeps AWAIT_KEY
meaning that pc addresses an `Fx0A` and no fault is latched. -/
def Obligations.EveryStepKeepsAwaitKeyMeaningWaiting : Prop :=
  ∀ s t : State, AwaitKeyMeansWaiting s → step s = .next t → AwaitKeyMeansWaiting t

/-- The three invariants hold right after reset (10_state.md R33). -/
def Obligations.ResetMeetsTheInvariants : Prop := State.reset.Inv
end

