-- ==== Sys2Proof/Laws/State.lean ====
section
/-! SUPPORT. One lemma per field per update of the state, true by `rfl`, and how registers and pixels
read after each update; no later proof unfolds a record update. -/

namespace Sys2Proof.Machine.State

variable (s : State)

@[simp] theorem setReg_v (x : Reg) (b : Byte) : (s.setReg x b).v = s.v.set x b := rfl
@[simp] theorem setReg_index (x : Reg) (b : Byte) : (s.setReg x b).index = s.index := rfl
@[simp] theorem setReg_pc (x : Reg) (b : Byte) : (s.setReg x b).pc = s.pc := rfl
@[simp] theorem setReg_stack (x : Reg) (b : Byte) : (s.setReg x b).stack = s.stack := rfl
@[simp] theorem setReg_sp (x : Reg) (b : Byte) : (s.setReg x b).sp = s.sp := rfl
@[simp] theorem setReg_dt (x : Reg) (b : Byte) : (s.setReg x b).dt = s.dt := rfl
@[simp] theorem setReg_st (x : Reg) (b : Byte) : (s.setReg x b).st = s.st := rfl
@[simp] theorem setReg_fb (x : Reg) (b : Byte) : (s.setReg x b).fb = s.fb := rfl
@[simp] theorem setReg_keys (x : Reg) (b : Byte) : (s.setReg x b).keys = s.keys := rfl
@[simp] theorem setReg_mem (x : Reg) (b : Byte) : (s.setReg x b).mem = s.mem := rfl
@[simp] theorem setReg_fault (x : Reg) (b : Byte) : (s.setReg x b).fault = s.fault := rfl
@[simp] theorem setReg_awaitKey (x : Reg) (b : Byte) : (s.setReg x b).awaitKey = s.awaitKey := rfl
@[simp] theorem setReg_soundOffEdge (x : Reg) (b : Byte) : (s.setReg x b).soundOffEdge = s.soundOffEdge := rfl
@[simp] theorem setReg_draws (x : Reg) (b : Byte) : (s.setReg x b).draws = s.draws := rfl
@[simp] theorem setReg_started (x : Reg) (b : Byte) : (s.setReg x b).started = s.started := rfl
@[simp] theorem setReg_agenda (x : Reg) (b : Byte) : (s.setReg x b).agenda = s.agenda := rfl
@[simp] theorem setReg_pixel (x : Reg) (b : Byte) (row : Fin 32) (col : Fin 64) :
    (s.setReg x b).pixel row col = s.pixel row col := rfl

@[simp] theorem setV_v (a : Vector Byte 16) : (s.setV a).v = a := rfl
@[simp] theorem setV_index (a : Vector Byte 16) : (s.setV a).index = s.index := rfl
@[simp] theorem setV_pc (a : Vector Byte 16) : (s.setV a).pc = s.pc := rfl
@[simp] theorem setV_stack (a : Vector Byte 16) : (s.setV a).stack = s.stack := rfl
@[simp] theorem setV_sp (a : Vector Byte 16) : (s.setV a).sp = s.sp := rfl
@[simp] theorem setV_dt (a : Vector Byte 16) : (s.setV a).dt = s.dt := rfl
@[simp] theorem setV_st (a : Vector Byte 16) : (s.setV a).st = s.st := rfl
@[simp] theorem setV_fb (a : Vector Byte 16) : (s.setV a).fb = s.fb := rfl
@[simp] theorem setV_keys (a : Vector Byte 16) : (s.setV a).keys = s.keys := rfl
@[simp] theorem setV_mem (a : Vector Byte 16) : (s.setV a).mem = s.mem := rfl
@[simp] theorem setV_fault (a : Vector Byte 16) : (s.setV a).fault = s.fault := rfl
@[simp] theorem setV_awaitKey (a : Vector Byte 16) : (s.setV a).awaitKey = s.awaitKey := rfl
@[simp] theorem setV_soundOffEdge (a : Vector Byte 16) : (s.setV a).soundOffEdge = s.soundOffEdge := rfl
@[simp] theorem setV_draws (a : Vector Byte 16) : (s.setV a).draws = s.draws := rfl
@[simp] theorem setV_started (a : Vector Byte 16) : (s.setV a).started = s.started := rfl
@[simp] theorem setV_agenda (a : Vector Byte 16) : (s.setV a).agenda = s.agenda := rfl
@[simp] theorem setV_reg (a : Vector Byte 16) (r : Reg) : (s.setV a).reg r = a.get r := rfl
@[simp] theorem setV_pixel (a : Vector Byte 16) (row : Fin 32) (col : Fin 64) :
    (s.setV a).pixel row col = s.pixel row col := rfl

@[simp] theorem setIndex_v (w : Word) : (s.setIndex w).v = s.v := rfl
@[simp] theorem setIndex_index (w : Word) : (s.setIndex w).index = w := rfl
@[simp] theorem setIndex_pc (w : Word) : (s.setIndex w).pc = s.pc := rfl
@[simp] theorem setIndex_stack (w : Word) : (s.setIndex w).stack = s.stack := rfl
@[simp] theorem setIndex_sp (w : Word) : (s.setIndex w).sp = s.sp := rfl
@[simp] theorem setIndex_dt (w : Word) : (s.setIndex w).dt = s.dt := rfl
@[simp] theorem setIndex_st (w : Word) : (s.setIndex w).st = s.st := rfl
@[simp] theorem setIndex_fb (w : Word) : (s.setIndex w).fb = s.fb := rfl
@[simp] theorem setIndex_keys (w : Word) : (s.setIndex w).keys = s.keys := rfl
@[simp] theorem setIndex_mem (w : Word) : (s.setIndex w).mem = s.mem := rfl
@[simp] theorem setIndex_fault (w : Word) : (s.setIndex w).fault = s.fault := rfl
@[simp] theorem setIndex_awaitKey (w : Word) : (s.setIndex w).awaitKey = s.awaitKey := rfl
@[simp] theorem setIndex_soundOffEdge (w : Word) : (s.setIndex w).soundOffEdge = s.soundOffEdge := rfl
@[simp] theorem setIndex_draws (w : Word) : (s.setIndex w).draws = s.draws := rfl
@[simp] theorem setIndex_started (w : Word) : (s.setIndex w).started = s.started := rfl
@[simp] theorem setIndex_agenda (w : Word) : (s.setIndex w).agenda = s.agenda := rfl
@[simp] theorem setIndex_reg (w : Word) (r : Reg) : (s.setIndex w).reg r = s.reg r := rfl
@[simp] theorem setIndex_pixel (w : Word) (row : Fin 32) (col : Fin 64) :
    (s.setIndex w).pixel row col = s.pixel row col := rfl

@[simp] theorem setPc_v (w : Word) : (s.setPc w).v = s.v := rfl
@[simp] theorem setPc_index (w : Word) : (s.setPc w).index = s.index := rfl
@[simp] theorem setPc_pc (w : Word) : (s.setPc w).pc = w := rfl
@[simp] theorem setPc_stack (w : Word) : (s.setPc w).stack = s.stack := rfl
@[simp] theorem setPc_sp (w : Word) : (s.setPc w).sp = s.sp := rfl
@[simp] theorem setPc_dt (w : Word) : (s.setPc w).dt = s.dt := rfl
@[simp] theorem setPc_st (w : Word) : (s.setPc w).st = s.st := rfl
@[simp] theorem setPc_fb (w : Word) : (s.setPc w).fb = s.fb := rfl
@[simp] theorem setPc_keys (w : Word) : (s.setPc w).keys = s.keys := rfl
@[simp] theorem setPc_mem (w : Word) : (s.setPc w).mem = s.mem := rfl
@[simp] theorem setPc_fault (w : Word) : (s.setPc w).fault = s.fault := rfl
@[simp] theorem setPc_awaitKey (w : Word) : (s.setPc w).awaitKey = s.awaitKey := rfl
@[simp] theorem setPc_soundOffEdge (w : Word) : (s.setPc w).soundOffEdge = s.soundOffEdge := rfl
@[simp] theorem setPc_draws (w : Word) : (s.setPc w).draws = s.draws := rfl
@[simp] theorem setPc_started (w : Word) : (s.setPc w).started = s.started := rfl
@[simp] theorem setPc_agenda (w : Word) : (s.setPc w).agenda = s.agenda := rfl
@[simp] theorem setPc_reg (w : Word) (r : Reg) : (s.setPc w).reg r = s.reg r := rfl
@[simp] theorem setPc_pixel (w : Word) (row : Fin 32) (col : Fin 64) :
    (s.setPc w).pixel row col = s.pixel row col := rfl

@[simp] theorem setStack_v (a : Vector Word Config.stackDepth) (n : Fin (Config.stackDepth + 1)) : (s.setStack a n).v = s.v := rfl
@[simp] theorem setStack_index (a : Vector Word Config.stackDepth) (n : Fin (Config.stackDepth + 1)) : (s.setStack a n).index = s.index := rfl
@[simp] theorem setStack_pc (a : Vector Word Config.stackDepth) (n : Fin (Config.stackDepth + 1)) : (s.setStack a n).pc = s.pc := rfl
@[simp] theorem setStack_stack (a : Vector Word Config.stackDepth) (n : Fin (Config.stackDepth + 1)) : (s.setStack a n).stack = a := rfl
@[simp] theorem setStack_sp (a : Vector Word Config.stackDepth) (n : Fin (Config.stackDepth + 1)) : (s.setStack a n).sp = n := rfl
@[simp] theorem setStack_dt (a : Vector Word Config.stackDepth) (n : Fin (Config.stackDepth + 1)) : (s.setStack a n).dt = s.dt := rfl
@[simp] theorem setStack_st (a : Vector Word Config.stackDepth) (n : Fin (Config.stackDepth + 1)) : (s.setStack a n).st = s.st := rfl
@[simp] theorem setStack_fb (a : Vector Word Config.stackDepth) (n : Fin (Config.stackDepth + 1)) : (s.setStack a n).fb = s.fb := rfl
@[simp] theorem setStack_keys (a : Vector Word Config.stackDepth) (n : Fin (Config.stackDepth + 1)) : (s.setStack a n).keys = s.keys := rfl
@[simp] theorem setStack_mem (a : Vector Word Config.stackDepth) (n : Fin (Config.stackDepth + 1)) : (s.setStack a n).mem = s.mem := rfl
@[simp] theorem setStack_fault (a : Vector Word Config.stackDepth) (n : Fin (Config.stackDepth + 1)) : (s.setStack a n).fault = s.fault := rfl
@[simp] theorem setStack_awaitKey (a : Vector Word Config.stackDepth) (n : Fin (Config.stackDepth + 1)) : (s.setStack a n).awaitKey = s.awaitKey := rfl
@[simp] theorem setStack_soundOffEdge (a : Vector Word Config.stackDepth) (n : Fin (Config.stackDepth + 1)) : (s.setStack a n).soundOffEdge = s.soundOffEdge := rfl
@[simp] theorem setStack_draws (a : Vector Word Config.stackDepth) (n : Fin (Config.stackDepth + 1)) : (s.setStack a n).draws = s.draws := rfl
@[simp] theorem setStack_started (a : Vector Word Config.stackDepth) (n : Fin (Config.stackDepth + 1)) : (s.setStack a n).started = s.started := rfl
@[simp] theorem setStack_agenda (a : Vector Word Config.stackDepth) (n : Fin (Config.stackDepth + 1)) : (s.setStack a n).agenda = s.agenda := rfl
@[simp] theorem setStack_reg (a : Vector Word Config.stackDepth) (n : Fin (Config.stackDepth + 1)) (r : Reg) : (s.setStack a n).reg r = s.reg r := rfl
@[simp] theorem setStack_pixel (a : Vector Word Config.stackDepth) (n : Fin (Config.stackDepth + 1)) (row : Fin 32) (col : Fin 64) :
    (s.setStack a n).pixel row col = s.pixel row col := rfl

@[simp] theorem setDt_v (b : Byte) : (s.setDt b).v = s.v := rfl
@[simp] theorem setDt_index (b : Byte) : (s.setDt b).index = s.index := rfl
@[simp] theorem setDt_pc (b : Byte) : (s.setDt b).pc = s.pc := rfl
@[simp] theorem setDt_stack (b : Byte) : (s.setDt b).stack = s.stack := rfl
@[simp] theorem setDt_sp (b : Byte) : (s.setDt b).sp = s.sp := rfl
@[simp] theorem setDt_dt (b : Byte) : (s.setDt b).dt = b := rfl
@[simp] theorem setDt_st (b : Byte) : (s.setDt b).st = s.st := rfl
@[simp] theorem setDt_fb (b : Byte) : (s.setDt b).fb = s.fb := rfl
@[simp] theorem setDt_keys (b : Byte) : (s.setDt b).keys = s.keys := rfl
@[simp] theorem setDt_mem (b : Byte) : (s.setDt b).mem = s.mem := rfl
@[simp] theorem setDt_fault (b : Byte) : (s.setDt b).fault = s.fault := rfl
@[simp] theorem setDt_awaitKey (b : Byte) : (s.setDt b).awaitKey = s.awaitKey := rfl
@[simp] theorem setDt_soundOffEdge (b : Byte) : (s.setDt b).soundOffEdge = s.soundOffEdge := rfl
@[simp] theorem setDt_draws (b : Byte) : (s.setDt b).draws = s.draws := rfl
@[simp] theorem setDt_started (b : Byte) : (s.setDt b).started = s.started := rfl
@[simp] theorem setDt_agenda (b : Byte) : (s.setDt b).agenda = s.agenda := rfl
@[simp] theorem setDt_reg (b : Byte) (r : Reg) : (s.setDt b).reg r = s.reg r := rfl
@[simp] theorem setDt_pixel (b : Byte) (row : Fin 32) (col : Fin 64) :
    (s.setDt b).pixel row col = s.pixel row col := rfl

@[simp] theorem setSt_v (b : Byte) : (s.setSt b).v = s.v := rfl
@[simp] theorem setSt_index (b : Byte) : (s.setSt b).index = s.index := rfl
@[simp] theorem setSt_pc (b : Byte) : (s.setSt b).pc = s.pc := rfl
@[simp] theorem setSt_stack (b : Byte) : (s.setSt b).stack = s.stack := rfl
@[simp] theorem setSt_sp (b : Byte) : (s.setSt b).sp = s.sp := rfl
@[simp] theorem setSt_dt (b : Byte) : (s.setSt b).dt = s.dt := rfl
@[simp] theorem setSt_st (b : Byte) : (s.setSt b).st = b := rfl
@[simp] theorem setSt_fb (b : Byte) : (s.setSt b).fb = s.fb := rfl
@[simp] theorem setSt_keys (b : Byte) : (s.setSt b).keys = s.keys := rfl
@[simp] theorem setSt_mem (b : Byte) : (s.setSt b).mem = s.mem := rfl
@[simp] theorem setSt_fault (b : Byte) : (s.setSt b).fault = s.fault := rfl
@[simp] theorem setSt_awaitKey (b : Byte) : (s.setSt b).awaitKey = s.awaitKey := rfl
@[simp] theorem setSt_soundOffEdge (b : Byte) : (s.setSt b).soundOffEdge = s.soundOffEdge := rfl
@[simp] theorem setSt_draws (b : Byte) : (s.setSt b).draws = s.draws := rfl
@[simp] theorem setSt_started (b : Byte) : (s.setSt b).started = s.started := rfl
@[simp] theorem setSt_agenda (b : Byte) : (s.setSt b).agenda = s.agenda := rfl
@[simp] theorem setSt_reg (b : Byte) (r : Reg) : (s.setSt b).reg r = s.reg r := rfl
@[simp] theorem setSt_pixel (b : Byte) (row : Fin 32) (col : Fin 64) :
    (s.setSt b).pixel row col = s.pixel row col := rfl

@[simp] theorem setFb_v (a : Framebuffer) : (s.setFb a).v = s.v := rfl
@[simp] theorem setFb_index (a : Framebuffer) : (s.setFb a).index = s.index := rfl
@[simp] theorem setFb_pc (a : Framebuffer) : (s.setFb a).pc = s.pc := rfl
@[simp] theorem setFb_stack (a : Framebuffer) : (s.setFb a).stack = s.stack := rfl
@[simp] theorem setFb_sp (a : Framebuffer) : (s.setFb a).sp = s.sp := rfl
@[simp] theorem setFb_dt (a : Framebuffer) : (s.setFb a).dt = s.dt := rfl
@[simp] theorem setFb_st (a : Framebuffer) : (s.setFb a).st = s.st := rfl
@[simp] theorem setFb_fb (a : Framebuffer) : (s.setFb a).fb = a := rfl
@[simp] theorem setFb_keys (a : Framebuffer) : (s.setFb a).keys = s.keys := rfl
@[simp] theorem setFb_mem (a : Framebuffer) : (s.setFb a).mem = s.mem := rfl
@[simp] theorem setFb_fault (a : Framebuffer) : (s.setFb a).fault = s.fault := rfl
@[simp] theorem setFb_awaitKey (a : Framebuffer) : (s.setFb a).awaitKey = s.awaitKey := rfl
@[simp] theorem setFb_soundOffEdge (a : Framebuffer) : (s.setFb a).soundOffEdge = s.soundOffEdge := rfl
@[simp] theorem setFb_draws (a : Framebuffer) : (s.setFb a).draws = s.draws := rfl
@[simp] theorem setFb_started (a : Framebuffer) : (s.setFb a).started = s.started := rfl
@[simp] theorem setFb_agenda (a : Framebuffer) : (s.setFb a).agenda = s.agenda := rfl
@[simp] theorem setFb_reg (a : Framebuffer) (r : Reg) : (s.setFb a).reg r = s.reg r := rfl
@[simp] theorem setFb_pixel (a : Framebuffer) (row : Fin 32) (col : Fin 64) :
    (s.setFb a).pixel row col = a.cell row col := rfl

@[simp] theorem setKeys_v (a : Keys) : (s.setKeys a).v = s.v := rfl
@[simp] theorem setKeys_index (a : Keys) : (s.setKeys a).index = s.index := rfl
@[simp] theorem setKeys_pc (a : Keys) : (s.setKeys a).pc = s.pc := rfl
@[simp] theorem setKeys_stack (a : Keys) : (s.setKeys a).stack = s.stack := rfl
@[simp] theorem setKeys_sp (a : Keys) : (s.setKeys a).sp = s.sp := rfl
@[simp] theorem setKeys_dt (a : Keys) : (s.setKeys a).dt = s.dt := rfl
@[simp] theorem setKeys_st (a : Keys) : (s.setKeys a).st = s.st := rfl
@[simp] theorem setKeys_fb (a : Keys) : (s.setKeys a).fb = s.fb := rfl
@[simp] theorem setKeys_keys (a : Keys) : (s.setKeys a).keys = a := rfl
@[simp] theorem setKeys_mem (a : Keys) : (s.setKeys a).mem = s.mem := rfl
@[simp] theorem setKeys_fault (a : Keys) : (s.setKeys a).fault = s.fault := rfl
@[simp] theorem setKeys_awaitKey (a : Keys) : (s.setKeys a).awaitKey = s.awaitKey := rfl
@[simp] theorem setKeys_soundOffEdge (a : Keys) : (s.setKeys a).soundOffEdge = s.soundOffEdge := rfl
@[simp] theorem setKeys_draws (a : Keys) : (s.setKeys a).draws = s.draws := rfl
@[simp] theorem setKeys_started (a : Keys) : (s.setKeys a).started = s.started := rfl
@[simp] theorem setKeys_agenda (a : Keys) : (s.setKeys a).agenda = s.agenda := rfl
@[simp] theorem setKeys_reg (a : Keys) (r : Reg) : (s.setKeys a).reg r = s.reg r := rfl
@[simp] theorem setKeys_pixel (a : Keys) (row : Fin 32) (col : Fin 64) :
    (s.setKeys a).pixel row col = s.pixel row col := rfl

@[simp] theorem setMem_v (m : Memory) : (s.setMem m).v = s.v := rfl
@[simp] theorem setMem_index (m : Memory) : (s.setMem m).index = s.index := rfl
@[simp] theorem setMem_pc (m : Memory) : (s.setMem m).pc = s.pc := rfl
@[simp] theorem setMem_stack (m : Memory) : (s.setMem m).stack = s.stack := rfl
@[simp] theorem setMem_sp (m : Memory) : (s.setMem m).sp = s.sp := rfl
@[simp] theorem setMem_dt (m : Memory) : (s.setMem m).dt = s.dt := rfl
@[simp] theorem setMem_st (m : Memory) : (s.setMem m).st = s.st := rfl
@[simp] theorem setMem_fb (m : Memory) : (s.setMem m).fb = s.fb := rfl
@[simp] theorem setMem_keys (m : Memory) : (s.setMem m).keys = s.keys := rfl
@[simp] theorem setMem_mem (m : Memory) : (s.setMem m).mem = m := rfl
@[simp] theorem setMem_fault (m : Memory) : (s.setMem m).fault = s.fault := rfl
@[simp] theorem setMem_awaitKey (m : Memory) : (s.setMem m).awaitKey = s.awaitKey := rfl
@[simp] theorem setMem_soundOffEdge (m : Memory) : (s.setMem m).soundOffEdge = s.soundOffEdge := rfl
@[simp] theorem setMem_draws (m : Memory) : (s.setMem m).draws = s.draws := rfl
@[simp] theorem setMem_started (m : Memory) : (s.setMem m).started = s.started := rfl
@[simp] theorem setMem_agenda (m : Memory) : (s.setMem m).agenda = s.agenda := rfl
@[simp] theorem setMem_reg (m : Memory) (r : Reg) : (s.setMem m).reg r = s.reg r := rfl
@[simp] theorem setMem_pixel (m : Memory) (row : Fin 32) (col : Fin 64) :
    (s.setMem m).pixel row col = s.pixel row col := rfl

@[simp] theorem setFault_v (a : FaultLatch) : (s.setFault a).v = s.v := rfl
@[simp] theorem setFault_index (a : FaultLatch) : (s.setFault a).index = s.index := rfl
@[simp] theorem setFault_pc (a : FaultLatch) : (s.setFault a).pc = s.pc := rfl
@[simp] theorem setFault_stack (a : FaultLatch) : (s.setFault a).stack = s.stack := rfl
@[simp] theorem setFault_sp (a : FaultLatch) : (s.setFault a).sp = s.sp := rfl
@[simp] theorem setFault_dt (a : FaultLatch) : (s.setFault a).dt = s.dt := rfl
@[simp] theorem setFault_st (a : FaultLatch) : (s.setFault a).st = s.st := rfl
@[simp] theorem setFault_fb (a : FaultLatch) : (s.setFault a).fb = s.fb := rfl
@[simp] theorem setFault_keys (a : FaultLatch) : (s.setFault a).keys = s.keys := rfl
@[simp] theorem setFault_mem (a : FaultLatch) : (s.setFault a).mem = s.mem := rfl
@[simp] theorem setFault_fault (a : FaultLatch) : (s.setFault a).fault = a := rfl
@[simp] theorem setFault_awaitKey (a : FaultLatch) : (s.setFault a).awaitKey = s.awaitKey := rfl
@[simp] theorem setFault_soundOffEdge (a : FaultLatch) : (s.setFault a).soundOffEdge = s.soundOffEdge := rfl
@[simp] theorem setFault_draws (a : FaultLatch) : (s.setFault a).draws = s.draws := rfl
@[simp] theorem setFault_started (a : FaultLatch) : (s.setFault a).started = s.started := rfl
@[simp] theorem setFault_agenda (a : FaultLatch) : (s.setFault a).agenda = s.agenda := rfl
@[simp] theorem setFault_reg (a : FaultLatch) (r : Reg) : (s.setFault a).reg r = s.reg r := rfl
@[simp] theorem setFault_pixel (a : FaultLatch) (row : Fin 32) (col : Fin 64) :
    (s.setFault a).pixel row col = s.pixel row col := rfl

@[simp] theorem setAwaitKey_v (b : Bool) : (s.setAwaitKey b).v = s.v := rfl
@[simp] theorem setAwaitKey_index (b : Bool) : (s.setAwaitKey b).index = s.index := rfl
@[simp] theorem setAwaitKey_pc (b : Bool) : (s.setAwaitKey b).pc = s.pc := rfl
@[simp] theorem setAwaitKey_stack (b : Bool) : (s.setAwaitKey b).stack = s.stack := rfl
@[simp] theorem setAwaitKey_sp (b : Bool) : (s.setAwaitKey b).sp = s.sp := rfl
@[simp] theorem setAwaitKey_dt (b : Bool) : (s.setAwaitKey b).dt = s.dt := rfl
@[simp] theorem setAwaitKey_st (b : Bool) : (s.setAwaitKey b).st = s.st := rfl
@[simp] theorem setAwaitKey_fb (b : Bool) : (s.setAwaitKey b).fb = s.fb := rfl
@[simp] theorem setAwaitKey_keys (b : Bool) : (s.setAwaitKey b).keys = s.keys := rfl
@[simp] theorem setAwaitKey_mem (b : Bool) : (s.setAwaitKey b).mem = s.mem := rfl
@[simp] theorem setAwaitKey_fault (b : Bool) : (s.setAwaitKey b).fault = s.fault := rfl
@[simp] theorem setAwaitKey_awaitKey (b : Bool) : (s.setAwaitKey b).awaitKey = b := rfl
@[simp] theorem setAwaitKey_soundOffEdge (b : Bool) : (s.setAwaitKey b).soundOffEdge = s.soundOffEdge := rfl
@[simp] theorem setAwaitKey_draws (b : Bool) : (s.setAwaitKey b).draws = s.draws := rfl
@[simp] theorem setAwaitKey_started (b : Bool) : (s.setAwaitKey b).started = s.started := rfl
@[simp] theorem setAwaitKey_agenda (b : Bool) : (s.setAwaitKey b).agenda = s.agenda := rfl
@[simp] theorem setAwaitKey_reg (b : Bool) (r : Reg) : (s.setAwaitKey b).reg r = s.reg r := rfl
@[simp] theorem setAwaitKey_pixel (b : Bool) (row : Fin 32) (col : Fin 64) :
    (s.setAwaitKey b).pixel row col = s.pixel row col := rfl

@[simp] theorem setSoundOffEdge_v (b : Bool) : (s.setSoundOffEdge b).v = s.v := rfl
@[simp] theorem setSoundOffEdge_index (b : Bool) : (s.setSoundOffEdge b).index = s.index := rfl
@[simp] theorem setSoundOffEdge_pc (b : Bool) : (s.setSoundOffEdge b).pc = s.pc := rfl
@[simp] theorem setSoundOffEdge_stack (b : Bool) : (s.setSoundOffEdge b).stack = s.stack := rfl
@[simp] theorem setSoundOffEdge_sp (b : Bool) : (s.setSoundOffEdge b).sp = s.sp := rfl
@[simp] theorem setSoundOffEdge_dt (b : Bool) : (s.setSoundOffEdge b).dt = s.dt := rfl
@[simp] theorem setSoundOffEdge_st (b : Bool) : (s.setSoundOffEdge b).st = s.st := rfl
@[simp] theorem setSoundOffEdge_fb (b : Bool) : (s.setSoundOffEdge b).fb = s.fb := rfl
@[simp] theorem setSoundOffEdge_keys (b : Bool) : (s.setSoundOffEdge b).keys = s.keys := rfl
@[simp] theorem setSoundOffEdge_mem (b : Bool) : (s.setSoundOffEdge b).mem = s.mem := rfl
@[simp] theorem setSoundOffEdge_fault (b : Bool) : (s.setSoundOffEdge b).fault = s.fault := rfl
@[simp] theorem setSoundOffEdge_awaitKey (b : Bool) : (s.setSoundOffEdge b).awaitKey = s.awaitKey := rfl
@[simp] theorem setSoundOffEdge_soundOffEdge (b : Bool) : (s.setSoundOffEdge b).soundOffEdge = b := rfl
@[simp] theorem setSoundOffEdge_draws (b : Bool) : (s.setSoundOffEdge b).draws = s.draws := rfl
@[simp] theorem setSoundOffEdge_started (b : Bool) : (s.setSoundOffEdge b).started = s.started := rfl
@[simp] theorem setSoundOffEdge_agenda (b : Bool) : (s.setSoundOffEdge b).agenda = s.agenda := rfl
@[simp] theorem setSoundOffEdge_reg (b : Bool) (r : Reg) : (s.setSoundOffEdge b).reg r = s.reg r := rfl
@[simp] theorem setSoundOffEdge_pixel (b : Bool) (row : Fin 32) (col : Fin 64) :
    (s.setSoundOffEdge b).pixel row col = s.pixel row col := rfl

@[simp] theorem setDraws_v (n : Nat) : (s.setDraws n).v = s.v := rfl
@[simp] theorem setDraws_index (n : Nat) : (s.setDraws n).index = s.index := rfl
@[simp] theorem setDraws_pc (n : Nat) : (s.setDraws n).pc = s.pc := rfl
@[simp] theorem setDraws_stack (n : Nat) : (s.setDraws n).stack = s.stack := rfl
@[simp] theorem setDraws_sp (n : Nat) : (s.setDraws n).sp = s.sp := rfl
@[simp] theorem setDraws_dt (n : Nat) : (s.setDraws n).dt = s.dt := rfl
@[simp] theorem setDraws_st (n : Nat) : (s.setDraws n).st = s.st := rfl
@[simp] theorem setDraws_fb (n : Nat) : (s.setDraws n).fb = s.fb := rfl
@[simp] theorem setDraws_keys (n : Nat) : (s.setDraws n).keys = s.keys := rfl
@[simp] theorem setDraws_mem (n : Nat) : (s.setDraws n).mem = s.mem := rfl
@[simp] theorem setDraws_fault (n : Nat) : (s.setDraws n).fault = s.fault := rfl
@[simp] theorem setDraws_awaitKey (n : Nat) : (s.setDraws n).awaitKey = s.awaitKey := rfl
@[simp] theorem setDraws_soundOffEdge (n : Nat) : (s.setDraws n).soundOffEdge = s.soundOffEdge := rfl
@[simp] theorem setDraws_draws (n : Nat) : (s.setDraws n).draws = n := rfl
@[simp] theorem setDraws_started (n : Nat) : (s.setDraws n).started = s.started := rfl
@[simp] theorem setDraws_agenda (n : Nat) : (s.setDraws n).agenda = s.agenda := rfl
@[simp] theorem setDraws_reg (n : Nat) (r : Reg) : (s.setDraws n).reg r = s.reg r := rfl
@[simp] theorem setDraws_pixel (n : Nat) (row : Fin 32) (col : Fin 64) :
    (s.setDraws n).pixel row col = s.pixel row col := rfl

@[simp] theorem setStarted_v (b : Bool) : (s.setStarted b).v = s.v := rfl
@[simp] theorem setStarted_index (b : Bool) : (s.setStarted b).index = s.index := rfl
@[simp] theorem setStarted_pc (b : Bool) : (s.setStarted b).pc = s.pc := rfl
@[simp] theorem setStarted_stack (b : Bool) : (s.setStarted b).stack = s.stack := rfl
@[simp] theorem setStarted_sp (b : Bool) : (s.setStarted b).sp = s.sp := rfl
@[simp] theorem setStarted_dt (b : Bool) : (s.setStarted b).dt = s.dt := rfl
@[simp] theorem setStarted_st (b : Bool) : (s.setStarted b).st = s.st := rfl
@[simp] theorem setStarted_fb (b : Bool) : (s.setStarted b).fb = s.fb := rfl
@[simp] theorem setStarted_keys (b : Bool) : (s.setStarted b).keys = s.keys := rfl
@[simp] theorem setStarted_mem (b : Bool) : (s.setStarted b).mem = s.mem := rfl
@[simp] theorem setStarted_fault (b : Bool) : (s.setStarted b).fault = s.fault := rfl
@[simp] theorem setStarted_awaitKey (b : Bool) : (s.setStarted b).awaitKey = s.awaitKey := rfl
@[simp] theorem setStarted_soundOffEdge (b : Bool) : (s.setStarted b).soundOffEdge = s.soundOffEdge := rfl
@[simp] theorem setStarted_draws (b : Bool) : (s.setStarted b).draws = s.draws := rfl
@[simp] theorem setStarted_started (b : Bool) : (s.setStarted b).started = b := rfl
@[simp] theorem setStarted_agenda (b : Bool) : (s.setStarted b).agenda = s.agenda := rfl
@[simp] theorem setStarted_reg (b : Bool) (r : Reg) : (s.setStarted b).reg r = s.reg r := rfl
@[simp] theorem setStarted_pixel (b : Bool) (row : Fin 32) (col : Fin 64) :
    (s.setStarted b).pixel row col = s.pixel row col := rfl

@[simp] theorem setAgenda_v (es : List Event) : (s.setAgenda es).v = s.v := rfl
@[simp] theorem setAgenda_index (es : List Event) : (s.setAgenda es).index = s.index := rfl
@[simp] theorem setAgenda_pc (es : List Event) : (s.setAgenda es).pc = s.pc := rfl
@[simp] theorem setAgenda_stack (es : List Event) : (s.setAgenda es).stack = s.stack := rfl
@[simp] theorem setAgenda_sp (es : List Event) : (s.setAgenda es).sp = s.sp := rfl
@[simp] theorem setAgenda_dt (es : List Event) : (s.setAgenda es).dt = s.dt := rfl
@[simp] theorem setAgenda_st (es : List Event) : (s.setAgenda es).st = s.st := rfl
@[simp] theorem setAgenda_fb (es : List Event) : (s.setAgenda es).fb = s.fb := rfl
@[simp] theorem setAgenda_keys (es : List Event) : (s.setAgenda es).keys = s.keys := rfl
@[simp] theorem setAgenda_mem (es : List Event) : (s.setAgenda es).mem = s.mem := rfl
@[simp] theorem setAgenda_fault (es : List Event) : (s.setAgenda es).fault = s.fault := rfl
@[simp] theorem setAgenda_awaitKey (es : List Event) : (s.setAgenda es).awaitKey = s.awaitKey := rfl
@[simp] theorem setAgenda_soundOffEdge (es : List Event) : (s.setAgenda es).soundOffEdge = s.soundOffEdge := rfl
@[simp] theorem setAgenda_draws (es : List Event) : (s.setAgenda es).draws = s.draws := rfl
@[simp] theorem setAgenda_started (es : List Event) : (s.setAgenda es).started = s.started := rfl
@[simp] theorem setAgenda_agenda (es : List Event) : (s.setAgenda es).agenda = es := rfl
@[simp] theorem setAgenda_reg (es : List Event) (r : Reg) : (s.setAgenda es).reg r = s.reg r := rfl
@[simp] theorem setAgenda_pixel (es : List Event) (row : Fin 32) (col : Fin 64) :
    (s.setAgenda es).pixel row col = s.pixel row col := rfl

/-- A register reads as what was last written to it; every other register is unchanged. -/
@[simp] theorem setReg_reg (x r : Reg) (b : Byte) :
    (s.setReg x b).reg r = if x = r then b else s.reg r := by
  simp only [reg, setReg, Vector.get_eq_getElem, Vector.getElem_set, Fin.ext_iff]

/-- The flag and the result of an ALU instruction: the result wins where `x` is 0xF (R13). -/
theorem writeFlagResult_reg (x r : Reg) (f : Bool) (b : Byte) :
    (s.writeFlagResult x f b).reg r =
      if x = r then b else if regVF = r then flagByte f else s.reg r := by
  simp only [writeFlagResult, setReg_reg]

end Sys2Proof.Machine.State
end

