-- ==== Sys2Proof/Laws/Encoding.lean ====
section
/-! SUPPORT. The operand fields of a word as numbers, the words the encoder makes as numbers, and the
bytes of a word (30_encoding.md R61, R62; 20_memory.md R45). -/

namespace Sys2Proof

theorem topNibble_toNat (w : Word) : (topNibble w).toNat = w.toNat / 4096 % 16 := by
  simp [topNibble, Nat.shiftRight_eq_div_pow]

theorem fieldX_val (w : Word) : (fieldX w).val = w.toNat / 256 % 16 := by
  simp [fieldX, Nat.shiftRight_eq_div_pow]

theorem fieldY_val (w : Word) : (fieldY w).val = w.toNat / 16 % 16 := by
  simp [fieldY, Nat.shiftRight_eq_div_pow]

theorem fieldN_eq (w : Word) : fieldN w = w.toNat % 16 := by
  simp [fieldN]

theorem fieldNN_toNat (w : Word) : (fieldNN w).toNat = w.toNat % 256 := by
  simp [fieldNN]

theorem fieldNNN_toNat (w : Word) : (fieldNNN w).toNat = w.toNat % 4096 := by
  simp [fieldNNN]

theorem wordNNN_toNat (op : Nat) (nnn : Addr) (h : op ≤ 0xF000) :
    (wordNNN op nnn).toNat = op + nnn.toNat := by
  have := nnn.isLt
  simp only [wordNNN, BitVec.toNat_ofNat]
  omega

theorem wordXNN_toNat (op : Nat) (x : Reg) (nn : Byte) (h : op ≤ 0xF000) :
    (wordXNN op x nn).toNat = op + 256 * x.val + nn.toNat := by
  have := nn.isLt
  have := x.isLt
  simp only [wordXNN, BitVec.toNat_ofNat]
  omega

theorem wordXYN_toNat (op : Nat) (x y : Reg) (n : Nat) (h : op ≤ 0xF000) :
    (wordXYN op x y n).toNat = op + 256 * x.val + 16 * y.val + n % 16 := by
  have := x.isLt
  have := y.isLt
  simp only [wordXYN, BitVec.toNat_ofNat]
  omega

theorem wordXKK_toNat (op : Nat) (x : Reg) (h : op ≤ 0xF0FF) :
    (wordXKK op x).toNat = op + 256 * x.val := by
  have := x.isLt
  simp only [wordXKK, BitVec.toNat_ofNat]
  omega

theorem wordOfBytes_toNat (hi lo : Byte) : (wordOfBytes hi lo).toNat = 256 * hi.toNat + lo.toNat := by
  have := lo.isLt
  rw [wordOfBytes, BitVec.toNat_append, Nat.shiftLeft_eq, Nat.mul_comm,
    ← Nat.two_pow_add_eq_or_of_lt (by simpa using this)]

/-- The two bytes of a word make the word again: nothing is lost between image and fetch (R45). -/
theorem wordOfBytes_of_word (w : Word) :
    wordOfBytes (w.extractLsb' 8 8) (w.extractLsb' 0 8) = w := by
  apply BitVec.eq_of_toNat_eq
  rw [wordOfBytes_toNat]
  simp [Nat.shiftRight_eq_div_pow]
  omega

/-- The decoder answers the instruction and the bytes after it, or rejects the word by name. -/
theorem decodeBytes_cons (hi lo : Byte) (rest : List Byte) :
    decodeBytes (hi :: lo :: rest) =
      match decode (wordOfBytes hi lo) with
      | some i => .ok (i, rest)
      | none => .error (.decodeFailure (wordOfBytes hi lo)) := rfl

end Sys2Proof
end

