-- ==== Sys2Proof/Laws/Memory.lean ====
section
/-! SUPPORT. Everything the memory operations do: a read after a write, the canonical form kept, and
blocks of single-byte writes (20_memory.md R41 to R43). -/

namespace Sys2Proof.Machine.Memory

variable {m : Memory} {a b lo : Nat} {v : Byte}

/-! ## The cells -/

@[simp] theorem lookup_nil : lookup [] a = resetByte a := rfl

theorem lookup_cell (k : Nat) (c : Byte) (rest : Memory) :
    lookup ((k, c) :: rest) a = if k = a then c else lookup rest a := rfl

theorem lookup_cons_other (h : a ≠ b) (v : Byte) (m : Memory) :
    lookup (cons a v m) b = lookup m b := by
  unfold cons
  split
  · rfl
  · simp [lookup_cell, h]

/-- Below the first address of a canonical list nothing is listed. -/
theorem lookup_of_wfFrom (h : wfFrom lo m = true) (ha : a < lo) : lookup m a = resetByte a := by
  induction m generalizing lo with
  | nil => rfl
  | cons cell rest ih =>
    obtain ⟨k, c⟩ := cell
    simp only [wfFrom, Bool.and_eq_true, decide_eq_true_eq] at h
    obtain ⟨⟨⟨hk, -⟩, -⟩, hr⟩ := h
    rw [lookup_cell, if_neg (by omega), ih hr (by omega)]

theorem lookup_cons_self (h : wfFrom (a + 1) m = true) (v : Byte) : lookup (cons a v m) a = v := by
  unfold cons
  split
  · next hv => rw [lookup_of_wfFrom h (by omega), hv]
  · simp [lookup_cell]

/-- A canonical list is canonical from any lower bound. -/
theorem wfFrom_mono (h : wfFrom lo m = true) {lo' : Nat} (hl : lo' ≤ lo) : wfFrom lo' m = true := by
  cases m with
  | nil => rfl
  | cons cell rest =>
    obtain ⟨k, c⟩ := cell
    simp only [wfFrom, Bool.and_eq_true, decide_eq_true_eq] at h ⊢
    exact ⟨⟨⟨by omega, h.1.1.2⟩, h.1.2⟩, h.2⟩

theorem wfFrom_cons (h : wfFrom (a + 1) m = true) (hlo : lo ≤ a) (ha : a < Config.memSize)
    (v : Byte) : wfFrom lo (cons a v m) = true := by
  unfold cons
  split
  · exact wfFrom_mono h (by omega)
  · next hv => simp [wfFrom, hlo, ha, hv, h]

/-- A store is seen at its own address. -/
theorem lookup_store_self (h : wfFrom lo m = true) (v : Byte) : lookup (store m a v) a = v := by
  induction m generalizing lo with
  | nil => exact lookup_cons_self rfl v
  | cons cell rest ih =>
    obtain ⟨k, c⟩ := cell
    simp only [wfFrom, Bool.and_eq_true, decide_eq_true_eq] at h
    obtain ⟨⟨⟨hk, hmem⟩, hne⟩, hr⟩ := h
    unfold store
    split
    · next hlt =>
      refine lookup_cons_self ?_ v
      simp [wfFrom, hmem, hne, hr]
      omega
    · split
      · next heq => subst heq; exact lookup_cons_self hr v
      · next hgt => rw [lookup_cell, if_neg (by omega), ih hr]

/-- A store leaves every other address alone. -/
theorem lookup_store_other (h : a ≠ b) (m : Memory) (v : Byte) :
    lookup (store m a v) b = lookup m b := by
  induction m with
  | nil => exact lookup_cons_other h v []
  | cons cell rest ih =>
    obtain ⟨k, c⟩ := cell
    unfold store
    split
    · exact lookup_cons_other h v _
    · split
      · next heq => subst heq; rw [lookup_cons_other h, lookup_cell, if_neg h]
      · rw [lookup_cell, lookup_cell, ih]

/-- A store keeps the canonical form. -/
theorem wfFrom_store (h : wfFrom lo m = true) (hlo : lo ≤ a) (ha : a < Config.memSize) (v : Byte) :
    wfFrom lo (store m a v) = true := by
  induction m generalizing lo with
  | nil => exact wfFrom_cons rfl hlo ha v
  | cons cell rest ih =>
    obtain ⟨k, c⟩ := cell
    simp only [wfFrom, Bool.and_eq_true, decide_eq_true_eq] at h
    obtain ⟨⟨⟨hk, hmem⟩, hne⟩, hr⟩ := h
    unfold store
    split
    · next hlt =>
      refine wfFrom_cons ?_ hlo ha v
      simp [wfFrom, hmem, hne, hr]
      omega
    · split
      · next heq => subst heq; exact wfFrom_cons hr hlo ha v
      · next hgt =>
        simp only [wfFrom, Bool.and_eq_true, decide_eq_true_eq]
        exact ⟨⟨⟨hk, hmem⟩, hne⟩, ih hr (by omega)⟩

/-! ## Reading and writing one byte -/

@[simp] theorem wf_nil : wf [] = true := rfl

@[simp] theorem read_nil (a : Addr) : read [] a = resetByte a.toNat := rfl

/-- `MemRead` after `MemWrite` at the same address (R42). -/
theorem read_write_self (h : m.wf = true) (a : Addr) (v : Byte) : (m.write a v).read a = v :=
  lookup_store_self h v

/-- `MemWrite` "changes that one cell and nothing else" (R42). -/
theorem read_write_other {a b : Addr} (h : a ≠ b) (m : Memory) (v : Byte) :
    (m.write a v).read b = m.read b :=
  lookup_store_other (fun e => h (BitVec.eq_of_toNat_eq e)) m v

theorem read_write (h : m.wf = true) (a b : Addr) (v : Byte) :
    (m.write a v).read b = if a = b then v else m.read b := by
  split
  · next e => subst e; exact read_write_self h a v
  · next e => exact read_write_other e m v

theorem wf_write (h : m.wf = true) (a : Addr) (v : Byte) : (m.write a v).wf = true :=
  wfFrom_store h (Nat.zero_le _) a.isLt v

/-! ## Blocks of bytes -/

theorem wf_writeBytes (bs : List Byte) (h : m.wf = true) (base : Word) :
    (m.writeBytes base bs).wf = true := by
  induction bs generalizing m base with
  | nil => exact h
  | cons b bs ih => exact ih (wf_write h _ b) _

/-- A block of writes leaves every address outside the block alone. -/
theorem read_writeBytes_other (bs : List Byte) (m : Memory) (base : Word) (a : Addr)
    (h : ∀ k, k < bs.length → a12 (base + BitVec.ofNat 16 k) ≠ a) :
    (m.writeBytes base bs).read a = m.read a := by
  induction bs generalizing m base with
  | nil => rfl
  | cons b bs ih =>
    have h0 := h 0 (by simp)
    rw [show base + BitVec.ofNat 16 0 = base by simp] at h0
    rw [writeBytes, ih, read_write_other h0]
    intro k hk
    have := h (k + 1) (by simpa using hk)
    rwa [show base + BitVec.ofNat 16 (k + 1) = base + 1 + BitVec.ofNat 16 k by
      rw [BitVec.ofNat_add]; ac_rfl] at this

/-- The addresses of a block are distinct within the 4096 of memory. -/
theorem a12_add_ne (base : Word) {j k : Nat} (hj : j < 4096) (hk : k < 4096) (h : j ≠ k) :
    a12 (base + BitVec.ofNat 16 j) ≠ a12 (base + BitVec.ofNat 16 k) := by
  intro e
  have e' := congrArg BitVec.toNat e
  simp only [a12, BitVec.extractLsb'_toNat, BitVec.toNat_add, BitVec.toNat_ofNat, Nat.shiftRight_zero]
    at e'
  omega

/-- A block of at most 4096 writes is seen, byte by byte, at its own addresses. -/
theorem read_writeBytes_self (bs : List Byte) (h : m.wf = true) (base : Word)
    (hlen : bs.length ≤ 4096) {k : Nat} (hk : k < bs.length) :
    (m.writeBytes base bs).read (a12 (base + BitVec.ofNat 16 k)) = bs[k] := by
  induction bs generalizing m base k with
  | nil => simp at hk
  | cons b bs ih =>
    simp only [List.length_cons] at hlen hk
    have shift : ∀ j, base + 1 + BitVec.ofNat 16 j = base + BitVec.ofNat 16 (j + 1) := by
      intro j; rw [BitVec.ofNat_add]; ac_rfl
    rw [writeBytes]
    cases k with
    | zero =>
      rw [read_writeBytes_other]
      · simpa using read_write_self h (a12 base) b
      · intro j hj e
        rw [shift] at e
        exact a12_add_ne base (j := j + 1) (k := 0) (by omega) (by omega) (by omega) e
    | succ k =>
      rw [← shift]
      simpa using ih (wf_write h _ b) (base + 1) (by omega) (by omega)

end Sys2Proof.Machine.Memory
end

