-- ==== Sys2Proof/Laws/Ops.lean ====
section
/-! SUPPORT. One lemma per shared operation, saying once everything it does: the pc's advance and the
skip, push and pop, block loads, drawing, the key encoder, taking a fault. -/

namespace Sys2Proof.Machine

/-! ## pc -/

theorem State.advance_eq (s : State) : s.advance = s.setPc (s.pc + 2) := rfl

/-- A skip changes pc and nothing else, by 4 where it is taken and by 2 otherwise (R90). -/
theorem State.skip_eq (s : State) (c : Bool) : s.skip c = s.setPc (s.pc + if c then 4 else 2) := by
  cases c <;> rfl

/-- Where the advance takes pc, as a number (10_state.md R16). -/
theorem State.advance_pc_toNat (s : State) : s.advance.pc.toNat = (s.pc.toNat + 2) % 65536 := by
  simp [State.advance, BitVec.toNat_add]

/-- Where a skip takes pc, as a number (41_skip.md R90). -/
theorem State.skip_pc_toNat (s : State) (c : Bool) :
    (s.skip c).pc.toNat = (s.pc.toNat + if c then 4 else 2) % 65536 := by
  rw [State.skip_eq]; cases c <;> simp [BitVec.toNat_add]

/-! ## The call stack -/

/-- A push below the depth writes the entry at SP and counts SP up (R20). -/
theorem State.push_eq_some {s t : State} {w : Word} (h : s.push w = some t) :
    ∃ hs : s.sp.val < Config.stackDepth,
      t = s.setStack (s.stack.set s.sp.val w hs) ⟨s.sp.val + 1, Nat.succ_lt_succ hs⟩ := by
  unfold State.push at h
  split at h
  · next hs => exact ⟨hs, by simpa using h.symm⟩
  · simp at h

/-- A push finds no room exactly when SP has reached the depth (R152). -/
theorem State.push_eq_none {s : State} {w : Word} :
    s.push w = none ↔ s.sp.val = Config.stackDepth := by
  have := s.sp.isLt
  unfold State.push
  split
  · exact iff_of_false (by simp) (by omega)
  · exact iff_of_true rfl (by omega)

/-- A pop answers the newest entry and counts SP down (R20). -/
theorem State.pop_eq_some {s t : State} {w : Word} (h : s.pop = some (w, t)) :
    ∃ n : Nat, ∃ hn : n < Config.stackDepth, s.sp.val = n + 1 ∧ w = s.stack.get ⟨n, hn⟩ ∧
      t = s.setStack s.stack ⟨n, by omega⟩ := by
  have hlt := s.sp.isLt
  unfold State.pop at h
  split at h
  · next hs =>
    simp only [Option.some.injEq, Prod.mk.injEq] at h
    exact ⟨s.sp.val - 1, by omega, by omega, h.1.symm, h.2.symm⟩
  · simp at h

/-- A pop finds nothing exactly when SP is 0 (R151). -/
theorem State.pop_eq_none {s : State} : s.pop = none ↔ s.sp.val = 0 := by
  unfold State.pop
  split
  · exact iff_of_false (by simp) (by omega)
  · exact iff_of_true rfl (by omega)

/-! ## Block loads -/

/-- A block load fills the first `n` registers and leaves the others alone (R126). -/
theorem loadBlock_get (m : Memory) (base : Word) (n : Nat) (v : Vector Byte 16) (r : Reg) :
    (loadBlock m base n v).get r =
      if r.val < n then m.read (a12 (base + BitVec.ofNat 16 r.val)) else v.get r := by
  induction n with
  | zero => simp [loadBlock]
  | succ n ih =>
    simp only [loadBlock, Vector.get_eq_getElem, Vector.getElem_setIfInBounds] at ih ⊢
    by_cases h : n = r.val
    · subst h; simp
    · simp only [h, if_false, ih]
      by_cases h2 : r.val < n
      · simp [h2, Nat.lt_succ_of_lt h2]
      · simp [h2, show ¬ r.val < n + 1 by omega]

/-- The block `Fx55` stores is V0 to Vx (R125). -/
theorem State.regBlock_length (s : State) (x : Reg) : (s.regBlock x).length = x.val + 1 := by
  have := x.isLt
  simp only [State.regBlock, List.length_take, Vector.length_toList]
  omega

theorem State.regBlock_getElem (s : State) (x r : Reg) (h : r.val < (s.regBlock x).length) :
    (s.regBlock x)[r.val] = s.reg r := by
  simp [State.regBlock, State.reg, Vector.get_eq_getElem]

/-! ## The framebuffer -/

theorem Framebuffer.cell_setCell (fb : Framebuffer) (row row' : Fin 32) (col col' : Fin 64) (b : Bool) :
    (fb.setCell row col b).cell row' col' =
      if row = row' ∧ col = col' then b else fb.cell row' col' := by
  simp only [Framebuffer.setCell, Framebuffer.cell, Vector.get_eq_getElem, Vector.getElem_set,
    Fin.ext_iff]
  by_cases hr : row.val = row'.val
  · by_cases hc : col.val = col'.val
    · simp [hr, hc]
    · simp [hr, hc]
  · simp [hr]

@[simp] theorem cell_blankFramebuffer (row : Fin 32) (col : Fin 64) :
    blankFramebuffer.cell row col = false := by
  simp [blankFramebuffer, Framebuffer.cell, Vector.get_eq_getElem]

/-- One pixel: its own cell is toggled where the bit is 1, every other cell is unchanged, and a cell
that was on under a 1 bit is a collision (R133). -/
theorem plot_cell (row row' : Fin 32) (col col' : Fin 64) (bit : Bool) (c : Canvas) :
    (plot row col bit c).fb.cell row' col' =
      (c.fb.cell row' col' ^^ (bit && decide (row = row' ∧ col = col'))) := by
  unfold plot
  cases bit
  · simp
  · rw [if_pos rfl, Framebuffer.cell_setCell]
    by_cases h : row = row' ∧ col = col'
    · obtain ⟨rfl, rfl⟩ := h; simp
    · simp [h]

theorem plot_hit (row : Fin 32) (col : Fin 64) (bit : Bool) (c : Canvas) :
    (plot row col bit c).hit = (c.hit || (bit && c.fb.cell row col)) := by
  cases bit <;> simp [plot]

/-- The columns of one sprite row are distinct: eight fit in 64 (R133). -/
theorem spriteCol_inj (x0 : Byte) {j k : Nat} (hj : j < 64) (hk : k < 64)
    (h : spriteCol x0 j = spriteCol x0 k) : j = k := by
  have := congrArg Fin.val h
  simp only [spriteCol, Fin.val_ofNat] at this
  omega

/-- The rows of one sprite are distinct: fifteen fit in 32 (R133). -/
theorem spriteRow_inj (y0 : Byte) {j k : Nat} (hj : j < 32) (hk : k < 32)
    (h : spriteRow y0 j = spriteRow y0 k) : j = k := by
  have := congrArg Fin.val h
  simp only [spriteRow, Fin.val_ofNat] at this
  omega

/-- The bits of the first `k` columns of a sprite row that fall on the column `col`. -/
def rowCovers (x0 b : Byte) (k : Nat) (col : Fin 64) : Prop :=
  ∃ c, c < k ∧ spriteCol x0 c = col ∧ spriteBit b c = true

theorem rowCovers_succ (x0 b : Byte) (k : Nat) (col : Fin 64) :
    rowCovers x0 b (k + 1) col ↔
      rowCovers x0 b k col ∨ (spriteCol x0 k = col ∧ spriteBit b k = true) := by
  constructor
  · rintro ⟨c, hc, h⟩
    rcases Nat.lt_succ_iff_lt_or_eq.mp hc with h' | rfl
    · exact .inl ⟨c, h', h⟩
    · exact .inr h
  · rintro (⟨c, hc, h⟩ | h)
    · exact ⟨c, by omega, h⟩
    · exact ⟨k, by omega, h⟩

/-- The bits of the first `k` rows of a sprite that fall on the cell. -/
def rowsCover (s : State) (x0 y0 : Byte) (k : Nat) (row : Fin 32) (col : Fin 64) : Prop :=
  ∃ r, r < k ∧ spriteRow y0 r = row ∧ rowCovers x0 (s.spriteByte r) 8 col

/-- One sprite row: exactly the covered cells of its framebuffer row are toggled, and it collides
exactly where a covered cell was on. -/
theorem plotRow_spec (row : Fin 32) (x0 b : Byte) (k : Nat) (hk : k ≤ 64) (c : Canvas) :
    (∀ row' col, (plotRow row x0 b k c).fb.cell row' col = true ↔
      ((row = row' ∧ rowCovers x0 b k col) ↔ c.fb.cell row' col = false)) ∧
    ((plotRow row x0 b k c).hit = true ↔
      c.hit = true ∨ ∃ col, rowCovers x0 b k col ∧ c.fb.cell row col = true) := by
  induction k with
  | zero =>
    have : ∀ col, ¬ rowCovers x0 b 0 col := by rintro col ⟨c, hc, -⟩; omega
    constructor
    · intro row' col
      simp [plotRow, this]
    · simp [plotRow, this]
  | succ k ih =>
    obtain ⟨ihc, ihh⟩ := ih (by omega)
    have fresh : ¬ rowCovers x0 b k (spriteCol x0 k) := by
      rintro ⟨j, hj, e, -⟩
      have := spriteCol_inj x0 (by omega) (by omega) e
      omega
    have keep := ihc row (spriteCol x0 k)
    constructor
    · intro row' col
      have := ihc row' col
      simp only [plotRow, plot_cell, rowCovers_succ]
      by_cases hrow : row = row'
      · subst hrow
        by_cases hcol : spriteCol x0 k = col
        · subst hcol
          cases hb : spriteBit b k <;> cases hc : c.fb.cell row (spriteCol x0 k) <;>
            cases hp : (plotRow row x0 b k c).fb.cell row (spriteCol x0 k) <;> simp_all
        · simp_all
      · simp_all
    · simp only [plotRow, plot_hit, Bool.or_eq_true, Bool.and_eq_true, ihh, rowCovers_succ]
      constructor
      · rintro ((h | ⟨col, h1, h2⟩) | ⟨h1, h2⟩)
        · exact .inl h
        · exact .inr ⟨col, .inl h1, h2⟩
        · refine .inr ⟨spriteCol x0 k, .inr ⟨rfl, h1⟩, ?_⟩
          simp_all
      · rintro (h | ⟨col, h1 | ⟨rfl, h1⟩, h2⟩)
        · exact .inl (.inl h)
        · exact .inl (.inr ⟨col, h1, h2⟩)
        · refine .inr ⟨h1, ?_⟩
          simp_all

/-- A whole sprite of at most 32 rows: exactly the covered cells are toggled, and it collides exactly
where a covered cell was on (R133). -/
theorem plotSprite_spec (s : State) (x0 y0 : Byte) (n : Nat) (hn : n ≤ 32) (c : Canvas) :
    (∀ row col, (plotSprite s x0 y0 n c).fb.cell row col = true ↔
      (rowsCover s x0 y0 n row col ↔ c.fb.cell row col = false)) ∧
    ((plotSprite s x0 y0 n c).hit = true ↔
      c.hit = true ∨ ∃ row col, rowsCover s x0 y0 n row col ∧ c.fb.cell row col = true) := by
  induction n with
  | zero =>
    have : ∀ row col, ¬ rowsCover s x0 y0 0 row col := by rintro row col ⟨r, hr, -⟩; omega
    constructor
    · intro row col; simp [plotSprite, this]
    · simp [plotSprite, this]
  | succ n ih =>
    obtain ⟨ihc, ihh⟩ := ih (by omega)
    obtain ⟨rc, rh⟩ := plotRow_spec (spriteRow y0 n) x0 (s.spriteByte n) 8 (by omega)
      (plotSprite s x0 y0 n c)
    have fresh : ∀ col, ¬ rowsCover s x0 y0 n (spriteRow y0 n) col := by
      rintro col ⟨j, hj, e, -⟩
      have := spriteRow_inj y0 (by omega) (by omega) e
      omega
    have step : ∀ row col, rowsCover s x0 y0 (n + 1) row col ↔ rowsCover s x0 y0 n row col ∨
        (spriteRow y0 n = row ∧ rowCovers x0 (s.spriteByte n) 8 col) := by
      intro row col
      constructor
      · rintro ⟨r, hr, h⟩
        rcases Nat.lt_succ_iff_lt_or_eq.mp hr with h' | rfl
        · exact .inl ⟨r, h', h⟩
        · exact .inr h
      · rintro (⟨r, hr, h⟩ | h)
        · exact ⟨r, by omega, h⟩
        · exact ⟨n, by omega, h⟩
    constructor
    · intro row col
      rw [plotSprite, rc, step]
      have h1 := ihc row col
      by_cases hrow : spriteRow y0 n = row
      · have h2 := fresh col
        rw [hrow] at h2
        cases hc : (plotSprite s x0 y0 n c).fb.cell row col <;> simp_all
      · cases hc : (plotSprite s x0 y0 n c).fb.cell row col <;> simp_all
    · rw [plotSprite, rh, ihh]
      constructor
      · rintro ((h | ⟨row, col, h1, h2⟩) | ⟨col, h1, h2⟩)
        · exact .inl h
        · exact .inr ⟨row, col, (step _ _).2 (.inl h1), h2⟩
        · refine .inr ⟨spriteRow y0 n, col, (step _ _).2 (.inr ⟨rfl, h1⟩), ?_⟩
          have := ihc (spriteRow y0 n) col
          have := fresh col
          simp_all
      · rintro (h | ⟨row, col, h1, h2⟩)
        · exact .inl (.inl h)
        · rcases (step _ _).1 h1 with h3 | ⟨rfl, h3⟩
          · exact .inl (.inr ⟨row, col, h3, h2⟩)
          · refine .inr ⟨col, h3, ?_⟩
            have := ihc (spriteRow y0 n) col
            have := fresh col
            simp_all

/-- The drawing's cover is the claims' `SpriteCovers`. -/
theorem rowsCover_iff (s : State) (x0 y0 : Byte) (n : Nat) (row : Fin 32) (col : Fin 64) :
    rowsCover s x0 y0 n row col ↔ SpriteCovers s x0 y0 n row col := by
  simp only [rowsCover, rowCovers, SpriteCovers, spriteRow, spriteCol, spriteBit, State.spriteByte,
    Fin.ext_iff, Fin.val_ofNat]
  constructor
  · rintro ⟨r, hr, hrow, c, hc, hcol, hb⟩
    exact ⟨r, c, hr, hc, hrow.symm, hcol.symm, hb⟩
  · rintro ⟨r, c, hr, hc, hrow, hcol, hb⟩
    exact ⟨r, hr, hrow.symm, c, hc, hcol.symm, hb⟩

/-! ## Keys -/

theorem leastKey_eq_none (keys : Keys) : leastKey keys = none ↔ ∀ k, keys.get k = false := by
  simp [leastKey, List.find?_eq_none]

/-- The key encoder answers a pressed key below which none is pressed (R142). -/
theorem leastKey_eq_some {keys : Keys} {k : Fin 16} (h : leastKey keys = some k) :
    keys.get k = true ∧ ∀ j, j < k → keys.get j = false := by
  rw [leastKey, List.find?_eq_some_iff_getElem] at h
  obtain ⟨hk, i, hi, rfl, hj⟩ := h
  refine ⟨hk, fun j hlt => ?_⟩
  have := hj j.val (by simpa [List.getElem_finRange, Fin.lt_def] using hlt)
  simpa [List.getElem_finRange] using this

/-! ## Faults -/

@[simp] theorem State.raise_fault (s : State) (k : FaultKind) (w : Word) :
    (s.raise k w).fault = ⟨k, w, s.pc⟩ := rfl

/-- Taking a fault changes FAULT and nothing else (R153). -/
theorem State.raise_sameExcept (s : State) (k : FaultKind) (w : Word) :
    SameExcept [.fault] s (s.raise k w) := by
  intro p hp
  cases p <;> simp_all [SamePart, State.raise]

end Sys2Proof.Machine
end

