-- ==== Sys2Proof/Laws/Exec.lean ====
section
/-! SUPPORT. What a step can do, said once: the parts of the state each instruction may change, the
events' own equations, and the two outcomes the Executor has. -/

namespace Sys2Proof.Machine

/-- The parts of the state an instruction may change; all others are its frame. -/
def changes : Instr → List Part
  | .cls => [.framebuffer, .pc]
  | .ret | .call _ => [.stack, .pc, .fault]
  | .jp _ | .jpV0 _ | .seImm _ _ | .sneImm _ _ | .seReg _ _ | .sneReg _ _ | .skp _ | .sknp _ => [.pc]
  | .ldImm _ _ | .addImm _ _ | .ldReg _ _ | .orReg _ _ | .andReg _ _ | .xorReg _ _ | .addReg _ _
  | .subReg _ _ | .shr _ _ | .subnReg _ _ | .shl _ _ | .ldVxDt _ | .loadRegs _ => [.regs, .pc]
  | .ldI _ | .addI _ | .ldF _ => [.index, .pc]
  | .rnd _ _ => [.regs, .draws, .pc]
  | .drw _ _ _ => [.regs, .framebuffer, .pc]
  | .ldVxK _ => [.regs, .awaitKey, .pc]
  | .ldDtVx _ => [.dt, .pc]
  | .ldStVx _ => [.st, .pc]
  | .ldB _ | .storeRegs _ => [.memory, .pc]

/-- An instruction that answers a next state changes only the parts `changes` names. -/
theorem exec_sameExcept {i : Instr} {s t : State} (h : exec i s = .next t) :
    SameExcept (changes i) s t := by
  intro p hp
  cases i
  case call nnn =>
    simp only [exec, execCall] at h
    split at h <;> cases h
    · next u hu =>
      obtain ⟨hs, rfl⟩ := State.push_eq_some hu
      cases p <;> simp_all [SamePart, changes]
    · exact State.raise_sameExcept _ _ _ p (by simp_all [changes])
  case ret =>
    simp only [exec, execRet] at h
    split at h <;> cases h
    · next w u hu =>
      obtain ⟨n, hn, -, -, rfl⟩ := State.pop_eq_some hu
      cases p <;> simp_all [SamePart, changes]
    · exact State.raise_sameExcept _ _ _ p (by simp_all [changes])
  case ldVxK x =>
    simp only [exec, execLdVxK] at h
    split at h <;> cases h <;> cases p <;> simp_all [SamePart, changes, State.advance]
  all_goals
    cases h
    cases p <;>
      simp_all [SamePart, changes, State.advance, State.skip_eq, State.writeFlagResult, rndWith]

/-- A word that decodes makes the Executor run its instruction, with AWAIT_KEY cleared before (R60). -/
theorem fetchDecodeExecute_of_decode {s : State} {i : Instr} (h : decode s.fetch = some i) :
    fetchDecodeExecute s = exec i (s.setAwaitKey false) := by
  simp only [fetchDecodeExecute, h]

/-- A word that does not decode makes it take DecodeFailure (R154). -/
theorem fetchDecodeExecute_of_illegal {s : State} (h : decode s.fetch = none) :
    fetchDecodeExecute s = .next (s.raise .decodeFailure s.fetch) := by
  simp only [fetchDecodeExecute, h]

/-- Which event a step performs. -/
theorem step_of_agenda {s : State} : step s =
    match s.agenda with
    | [] => stepEvent s
    | e :: rest => runEvent e (s.setAgenda rest) := rfl

/-- Fetching reads memory and pc only. -/
theorem fetch_congr {s t : State} (hm : ∀ a, t.mem.read a = s.mem.read a) (hp : t.pc = s.pc) :
    t.fetch = s.fetch := by
  simp only [State.fetch, Memory.read2, hm, hp]

/-- An image is written only before the first `Step` and only where it fits (R169). -/
theorem installImage_eq_next {bytes : List Byte} {s t : State} (h : installImage bytes s = .next t) :
    s.started = false ∧ bytes.length ≤ Config.progMax ∧
      t = s.quiet.setMem (s.mem.writeBytes Config.progBase bytes) := by
  unfold installImage at h
  split at h
  · cases h
  · split at h
    · cases h
    · cases h
      exact ⟨by simp_all, by omega, rfl⟩

/-- A timer counts down to 0 and stays there (R160). -/
theorem countDown_toNat (b : Byte) : (countDown b).toNat = b.toNat - 1 := by
  have := b.isLt
  unfold countDown
  split
  · rw [BitVec.toNat_sub]; simp; omega
  · omega

end Sys2Proof.Machine
end

