-- ==== Sys2Proof/Laws/PerInstr.lean ====
section
/-! SUPPORT. Facts about every instruction as syntax, one lemma per constructor. The family
`MajorOpcode`: the top nibble of an instruction's word is the major opcode of its row (30_encoding.md
R61, R63). -/

namespace Sys2Proof.Laws.MajorOpcode

/-- The major opcode of an instruction: bits 15:12 of its row's `match` value (R63). -/
def major : Instr → Nat
  | .cls => 0x0
  | .ret => 0x0
  | .jp _ => 0x1
  | .call _ => 0x2
  | .seImm _ _ => 0x3
  | .sneImm _ _ => 0x4
  | .seReg _ _ => 0x5
  | .ldImm _ _ => 0x6
  | .addImm _ _ => 0x7
  | .ldReg _ _ => 0x8
  | .orReg _ _ => 0x8
  | .andReg _ _ => 0x8
  | .xorReg _ _ => 0x8
  | .addReg _ _ => 0x8
  | .subReg _ _ => 0x8
  | .shr _ _ => 0x8
  | .subnReg _ _ => 0x8
  | .shl _ _ => 0x8
  | .sneReg _ _ => 0x9
  | .ldI _ => 0xA
  | .jpV0 _ => 0xB
  | .rnd _ _ => 0xC
  | .drw _ _ _ => 0xD
  | .skp _ => 0xE
  | .sknp _ => 0xE
  | .ldVxDt _ => 0xF
  | .ldVxK _ => 0xF
  | .ldDtVx _ => 0xF
  | .ldStVx _ => 0xF
  | .addI _ => 0xF
  | .ldF _ => 0xF
  | .ldB _ => 0xF
  | .storeRegs _ => 0xF
  | .loadRegs _ => 0xF

/-- The top nibble of the encoded word is the row's major opcode. -/
def Statement (i : Instr) : Prop := (topNibble (encode i)).toNat = major i

theorem cls : Statement .cls := by
  rw [Statement]
  decide

theorem ret : Statement .ret := by
  rw [Statement]
  decide

theorem jp (nnn : Addr) : Statement (.jp nnn) := by
  have := nnn.isLt
  rw [Statement, topNibble_toNat, encode, wordNNN_toNat _ _ (by omega), major]
  omega

theorem call (nnn : Addr) : Statement (.call nnn) := by
  have := nnn.isLt
  rw [Statement, topNibble_toNat, encode, wordNNN_toNat _ _ (by omega), major]
  omega

theorem seImm (x : Reg) (nn : Byte) : Statement (.seImm x nn) := by
  have := x.isLt
  have := nn.isLt
  rw [Statement, topNibble_toNat, encode, wordXNN_toNat _ _ _ (by omega), major]
  omega

theorem sneImm (x : Reg) (nn : Byte) : Statement (.sneImm x nn) := by
  have := x.isLt
  have := nn.isLt
  rw [Statement, topNibble_toNat, encode, wordXNN_toNat _ _ _ (by omega), major]
  omega

theorem seReg (x y : Reg) : Statement (.seReg x y) := by
  have := x.isLt
  have := y.isLt
  rw [Statement, topNibble_toNat, encode, wordXYN_toNat _ _ _ _ (by omega), major]
  omega

theorem ldImm (x : Reg) (nn : Byte) : Statement (.ldImm x nn) := by
  have := x.isLt
  have := nn.isLt
  rw [Statement, topNibble_toNat, encode, wordXNN_toNat _ _ _ (by omega), major]
  omega

theorem addImm (x : Reg) (nn : Byte) : Statement (.addImm x nn) := by
  have := x.isLt
  have := nn.isLt
  rw [Statement, topNibble_toNat, encode, wordXNN_toNat _ _ _ (by omega), major]
  omega

theorem ldReg (x y : Reg) : Statement (.ldReg x y) := by
  have := x.isLt
  have := y.isLt
  rw [Statement, topNibble_toNat, encode, wordXYN_toNat _ _ _ _ (by omega), major]
  omega

theorem orReg (x y : Reg) : Statement (.orReg x y) := by
  have := x.isLt
  have := y.isLt
  rw [Statement, topNibble_toNat, encode, wordXYN_toNat _ _ _ _ (by omega), major]
  omega

theorem andReg (x y : Reg) : Statement (.andReg x y) := by
  have := x.isLt
  have := y.isLt
  rw [Statement, topNibble_toNat, encode, wordXYN_toNat _ _ _ _ (by omega), major]
  omega

theorem xorReg (x y : Reg) : Statement (.xorReg x y) := by
  have := x.isLt
  have := y.isLt
  rw [Statement, topNibble_toNat, encode, wordXYN_toNat _ _ _ _ (by omega), major]
  omega

theorem addReg (x y : Reg) : Statement (.addReg x y) := by
  have := x.isLt
  have := y.isLt
  rw [Statement, topNibble_toNat, encode, wordXYN_toNat _ _ _ _ (by omega), major]
  omega

theorem subReg (x y : Reg) : Statement (.subReg x y) := by
  have := x.isLt
  have := y.isLt
  rw [Statement, topNibble_toNat, encode, wordXYN_toNat _ _ _ _ (by omega), major]
  omega

theorem shr (x y : Reg) : Statement (.shr x y) := by
  have := x.isLt
  have := y.isLt
  rw [Statement, topNibble_toNat, encode, wordXYN_toNat _ _ _ _ (by omega), major]
  omega

theorem subnReg (x y : Reg) : Statement (.subnReg x y) := by
  have := x.isLt
  have := y.isLt
  rw [Statement, topNibble_toNat, encode, wordXYN_toNat _ _ _ _ (by omega), major]
  omega

theorem shl (x y : Reg) : Statement (.shl x y) := by
  have := x.isLt
  have := y.isLt
  rw [Statement, topNibble_toNat, encode, wordXYN_toNat _ _ _ _ (by omega), major]
  omega

theorem sneReg (x y : Reg) : Statement (.sneReg x y) := by
  have := x.isLt
  have := y.isLt
  rw [Statement, topNibble_toNat, encode, wordXYN_toNat _ _ _ _ (by omega), major]
  omega

theorem ldI (nnn : Addr) : Statement (.ldI nnn) := by
  have := nnn.isLt
  rw [Statement, topNibble_toNat, encode, wordNNN_toNat _ _ (by omega), major]
  omega

theorem jpV0 (nnn : Addr) : Statement (.jpV0 nnn) := by
  have := nnn.isLt
  rw [Statement, topNibble_toNat, encode, wordNNN_toNat _ _ (by omega), major]
  omega

theorem rnd (x : Reg) (nn : Byte) : Statement (.rnd x nn) := by
  have := x.isLt
  have := nn.isLt
  rw [Statement, topNibble_toNat, encode, wordXNN_toNat _ _ _ (by omega), major]
  omega

theorem drw (x y : Reg) (n : Nat) : Statement (.drw x y n) := by
  have := x.isLt
  have := y.isLt
  rw [Statement, topNibble_toNat, encode, wordXYN_toNat _ _ _ _ (by omega), major]
  omega

theorem skp (x : Reg) : Statement (.skp x) := by
  have := x.isLt
  rw [Statement, topNibble_toNat, encode, wordXKK_toNat _ _ (by omega), major]
  omega

theorem sknp (x : Reg) : Statement (.sknp x) := by
  have := x.isLt
  rw [Statement, topNibble_toNat, encode, wordXKK_toNat _ _ (by omega), major]
  omega

theorem ldVxDt (x : Reg) : Statement (.ldVxDt x) := by
  have := x.isLt
  rw [Statement, topNibble_toNat, encode, wordXKK_toNat _ _ (by omega), major]
  omega

theorem ldVxK (x : Reg) : Statement (.ldVxK x) := by
  have := x.isLt
  rw [Statement, topNibble_toNat, encode, wordXKK_toNat _ _ (by omega), major]
  omega

theorem ldDtVx (x : Reg) : Statement (.ldDtVx x) := by
  have := x.isLt
  rw [Statement, topNibble_toNat, encode, wordXKK_toNat _ _ (by omega), major]
  omega

theorem ldStVx (x : Reg) : Statement (.ldStVx x) := by
  have := x.isLt
  rw [Statement, topNibble_toNat, encode, wordXKK_toNat _ _ (by omega), major]
  omega

theorem addI (x : Reg) : Statement (.addI x) := by
  have := x.isLt
  rw [Statement, topNibble_toNat, encode, wordXKK_toNat _ _ (by omega), major]
  omega

theorem ldF (x : Reg) : Statement (.ldF x) := by
  have := x.isLt
  rw [Statement, topNibble_toNat, encode, wordXKK_toNat _ _ (by omega), major]
  omega

theorem ldB (x : Reg) : Statement (.ldB x) := by
  have := x.isLt
  rw [Statement, topNibble_toNat, encode, wordXKK_toNat _ _ (by omega), major]
  omega

theorem storeRegs (x : Reg) : Statement (.storeRegs x) := by
  have := x.isLt
  rw [Statement, topNibble_toNat, encode, wordXKK_toNat _ _ (by omega), major]
  omega

theorem loadRegs (x : Reg) : Statement (.loadRegs x) := by
  have := x.isLt
  rw [Statement, topNibble_toNat, encode, wordXKK_toNat _ _ (by omega), major]
  omega

end Sys2Proof.Laws.MajorOpcode
end

