-- ==== Sys2Proof/Tests/Slice0.lean ====
section
/-! SUPPORT. The model's own tests: the expected values are those of spec/95_test_vectors.md (the vector's
id is in the test's comment), the words are written out from the encodings of 30_encoding.md R61, R63.
Then one witness per statement that has hypotheses. -/

open Sys2Proof Sys2Proof.Machine Sys2Proof.Claims

namespace Sys2Proof.Tests

/-- What `f` reads in the state after one step of `s` with the word `w` at pc, if there is a next state. -/
def after {α : Type} (s : State) (w : Nat) (f : State → α) : Option α :=
  match step (s.withFetchWord 16 w) with
  | .next t => some (f t)
  | .fault _ => none
  | .refused _ => none

/-- What `f` reads in the state after one event of `s`, if there is a next state. -/
def afterEvent {α : Type} (s : State) (e : Event) (f : State → α) : Option α :=
  match runEvent e s with
  | .next t => some (f t)
  | .fault _ => none
  | .refused _ => none

/-- The reset state with two registers set. -/
def regs (x : Reg) (a : Byte) (y : Reg) (b : Byte) : State := (State.reset.setReg x a).setReg y b

/-- The reset state with the index register and one register set. -/
def atIndex (i : Word) (x : Reg) (a : Byte) : State := (State.reset.setIndex i).setReg x a

/-- A state with bytes stored from an address upward. -/
def withBytes (s : State) (base : Word) (bs : List Byte) : State := s.setMem (s.mem.writeBytes base bs)

/-- The input vector with the listed keys pressed. -/
def pressed (ks : List (Fin 16)) : Keys := Vector.ofFn (fun k => decide (k ∈ ks))

/-- The framebuffer with the listed cells on. -/
def lit (cells : List (Fin 32 × Fin 64)) : Framebuffer :=
  cells.foldr (fun p fb => fb.setCell p.1 p.2 true) blankFramebuffer

/-! ## Well-formedness -/

/-- A sprite of sixteen rows has no encoding (R62). -/
theorem test_wellFormed_refuses_sixteen_rows : WellFormed (.drw 1 2 16) = false := by decide

theorem test_wellFormed_admits_fifteen_rows : WellFormed (.drw 1 2 15) = true := by decide

/-! ## Words written out from the opcode map decode to their instruction, one per constructor -/

theorem test_decode_families_0_to_7 :
    decode 0b0000000011100000 = some .cls ∧ decode 0b0000000011101110 = some .ret ∧
    decode 0b0001101010111100 = some (.jp 0xABC) ∧ decode 0b0010001100000000 = some (.call 0x300) ∧
    decode 0b0011001100101010 = some (.seImm 3 0x2A) ∧
    decode 0b0100001100101011 = some (.sneImm 3 0x2B) ∧
    decode 0b0101000100100000 = some (.seReg 1 2) ∧
    decode 0b0110101000111100 = some (.ldImm 0xA 0x3C) ∧
    decode 0b0111000100000101 = some (.addImm 1 5) := by decide

theorem test_decode_family_8 :
    decode 0b1000000100100000 = some (.ldReg 1 2) ∧ decode 0b1000000100100001 = some (.orReg 1 2) ∧
    decode 0b1000000100100010 = some (.andReg 1 2) ∧
    decode 0b1000000100100011 = some (.xorReg 1 2) ∧
    decode 0b1000000100100100 = some (.addReg 1 2) ∧
    decode 0b1000000100100101 = some (.subReg 1 2) ∧ decode 0b1000000100100110 = some (.shr 1 2) ∧
    decode 0b1000111111110111 = some (.subnReg 0xF 0xF) ∧
    decode 0b1000101010111110 = some (.shl 0xA 0xB) := by decide

theorem test_decode_families_9_to_E :
    decode 0b1001000100100000 = some (.sneReg 1 2) ∧ decode 0b1010001011110000 = some (.ldI 0x2F0) ∧
    decode 0b1011001000010000 = some (.jpV0 0x210) ∧ decode 0b1100000100001111 = some (.rnd 1 0x0F) ∧
    decode 0b1101000000010101 = some (.drw 0 1 5) ∧ decode 0b1110111110011110 = some (.skp 0xF) ∧
    decode 0b1110010010100001 = some (.sknp 4) := by decide

theorem test_decode_family_F :
    decode 0b1111001100000111 = some (.ldVxDt 3) ∧ decode 0b1111010100001010 = some (.ldVxK 5) ∧
    decode 0b1111001100010101 = some (.ldDtVx 3) ∧ decode 0b1111001100011000 = some (.ldStVx 3) ∧
    decode 0b1111000100011110 = some (.addI 1) ∧ decode 0b1111001000101001 = some (.ldF 2) ∧
    decode 0b1111000100110011 = some (.ldB 1) ∧ decode 0b1111000101010101 = some (.storeRegs 1) ∧
    decode 0b1111000001100101 = some (.loadRegs 0) := by decide

/-- V-DEC-1 to V-DEC-7: illegal words. -/
theorem test_decode_refuses_illegal_words :
    [0xFFFF, 0x0000, 0x0123, 0x00E1, 0x00FE, 0x00C1, 0x00FD, 0x5AB1, 0x9AB1, 0x8AB8, 0x8ABF, 0xE19F,
      0xE0A0, 0xF000, 0xF1FF, 0xF030, 0xF075, 0xF085].all (fun w => (decode w).isNone) = true := by
  decide

/-- Fewer than two bytes are no instruction, and an illegal word is rejected with the word (R61, R69). -/
theorem test_decodeBytes_rejects_by_name :
    decodeBytes [0x12] = .error .truncated ∧
    decodeBytes [0xFF, 0xFF] = .error (.decodeFailure 0xFFFF) ∧
    decodeBytes [0x12, 0x34, 0x56] = .ok (.jp 0x234, [0x56]) := by decide

theorem test_decodeTableWord : decodeTableWord 16 0x8124 = some (.addReg 1 2) := by decide

/-- R72: `SHR V1, V2` sets the unused field, `SHR V1` leaves it 0. -/
theorem test_assemble_shift :
    assemble ⟨.SHR, [.reg 1]⟩ = some (.shr 1 0) ∧
    (assemble ⟨.SHR, [.reg 1, .reg 2]⟩).map encode = some 0x8126 := by decide

/-! ## Jumps, calls, returns -/

/-- V-FLOW-1. -/
theorem test_jp : after State.reset 0x1ABC (·.pc) = some 0x0ABC := by decide

/-- V-FLOW-3. -/
theorem test_call :
    after State.reset 0x2300 (fun t => (t.pc, t.sp.val, t.stack.get 0)) = some (0x300, 1, 0x200) := by
  decide

/-- V-FLOW-5, the depth reached. -/
theorem test_call_overflow :
    after ((State.reset.setPc 0x456).setStack State.reset.stack 16) 0x2ABC
      (fun t => (t.fault, t.pc, t.sp.val)) =
      some (⟨.stackOverflow, 0x2ABC, 0x456⟩, 0x456, 16) := by decide

/-- V-FLOW-7: the newest entry is used. -/
theorem test_ret :
    after ((State.reset.setPc 0x300).setStack ((State.reset.stack.set 0 0x200).set 1 0xABC) 2) 0x00EE
      (fun t => (t.pc, t.sp.val, t.stack.get 0)) = some (0xABE, 1, 0x200) := by decide

/-- V-FLOW-8. -/
theorem test_ret_underflow :
    after (State.reset.setPc 0x300) 0x00EE (fun t => (t.fault, t.pc, t.sp.val)) =
      some (⟨.stackUnderflow, 0x00EE, 0x300⟩, 0x300, 0) := by decide

/-- V-FLOW-10: not masked. -/
theorem test_jpV0 : after (State.reset.setReg 0 0xFF) 0xBFFF (·.pc) = some 0x10FE := by decide

/-! ## Skips -/

/-- V-SKIP-1, V-SKIP-2. -/
theorem test_seImm :
    after (State.reset.setReg 3 0x2A) 0x332A (·.pc) = some 0x204 ∧
    after (State.reset.setReg 3 0x2A) 0x332B (·.pc) = some 0x202 := by decide

/-- V-SKIP-3, V-SKIP-4. -/
theorem test_sneImm :
    after (State.reset.setReg 3 0x2A) 0x432A (·.pc) = some 0x202 ∧
    after (State.reset.setReg 3 0x2A) 0x432B (·.pc) = some 0x204 := by decide

/-- V-SKIP-5, V-SKIP-6. -/
theorem test_seReg :
    after (regs 1 7 2 7) 0x5120 (·.pc) = some 0x204 ∧
    after (regs 1 7 2 8) 0x5120 (·.pc) = some 0x202 := by decide

/-- V-SKIP-7, V-SKIP-8. -/
theorem test_sneReg :
    after (regs 1 7 2 8) 0x9120 (·.pc) = some 0x204 ∧
    after (regs 1 7 2 7) 0x9120 (·.pc) = some 0x202 := by decide

/-- V-SKIP-13: pc wraps at 16 bits, and the fetch is masked to 12. -/
theorem test_skip_wraps : after (State.reset.setPc 0xFFFE) 0x3000 (·.pc) = some 0x0002 := by decide

/-! ## Loads, ALU, random -/

/-- V-ALU-1. -/
theorem test_ldImm :
    after State.reset 0x6A3C (fun t => (t.reg 0xA, t.pc)) = some (0x3C, 0x202) := by decide

/-- V-ALU-3: no flag. -/
theorem test_addImm :
    after (State.reset.setReg 1 0xFE) 0x7105 (fun t => (t.reg 1, t.reg 15)) = some (0x03, 0) := by
  decide

/-- V-ALU-6. -/
theorem test_ldReg :
    after (State.reset.setReg 2 0x55) 0x8120 (fun t => (t.reg 1, t.reg 2)) = some (0x55, 0x55) := by
  decide

/-- V-ALU-8, V-ALU-9, V-ALU-10: VF is not touched. -/
theorem test_logic :
    after ((regs 1 0xF0 2 0x0F).setReg 15 0x5A) 0x8121 (fun t => (t.reg 1, t.reg 15)) =
      some (0xFF, 0x5A) ∧
    after ((regs 1 0xF0 2 0x3C).setReg 15 0x5A) 0x8122 (fun t => (t.reg 1, t.reg 15)) =
      some (0x30, 0x5A) ∧
    after ((regs 1 0xF0 2 0x3C).setReg 15 0x5A) 0x8123 (fun t => (t.reg 1, t.reg 15)) =
      some (0xCC, 0x5A) := by decide

/-- S1, V-ALU-13: carry, and 255 is no carry. -/
theorem test_addReg :
    after (regs 1 250 2 10) 0x8124 (fun t => (t.reg 1, t.reg 15)) = some (4, 1) ∧
    after (regs 1 0xFF 2 0) 0x8124 (fun t => (t.reg 1, t.reg 15)) = some (0xFF, 0) := by decide

/-- V-ALU-16, V-ALU-17: VF as destination keeps the result, VF as source is the old VF. -/
theorem test_addReg_vf :
    after (regs 15 200 1 100) 0x8F14 (fun t => (t.reg 15, t.reg 1)) = some (44, 100) ∧
    after (regs 1 10 15 7) 0x81F4 (fun t => (t.reg 1, t.reg 15)) = some (17, 0) := by decide

/-- S5, V-ALU-19: borrow, and equality is no borrow. -/
theorem test_subReg :
    after (regs 1 5 2 10) 0x8125 (fun t => (t.reg 1, t.reg 15)) = some (251, 0) ∧
    after (regs 1 7 2 7) 0x8125 (fun t => (t.reg 1, t.reg 15)) = some (0, 1) := by decide

/-- V-ALU-24: Vy is neither read nor written. -/
theorem test_shr :
    after (regs 1 0x81 2 0x77) 0x8126 (fun t => (t.reg 1, t.reg 15, t.reg 2)) =
      some (0x40, 1, 0x77) := by decide

/-- V-ALU-29, V-ALU-30. -/
theorem test_subnReg :
    after (regs 1 5 2 10) 0x8127 (fun t => (t.reg 1, t.reg 15)) = some (5, 1) ∧
    after (regs 1 10 2 5) 0x8127 (fun t => (t.reg 1, t.reg 15)) = some (251, 0) := by decide

/-- V-ALU-33. -/
theorem test_shl :
    after (regs 1 0x81 2 0x77) 0x812E (fun t => (t.reg 1, t.reg 15, t.reg 2)) =
      some (0x02, 1, 0x77) := by decide

/-- V-ALU-38: the draw 0xA7 masked with 0x0F. -/
theorem test_rnd_draw : (rndWith 0xA7 1 0x0F State.reset).reg 1 = 0x07 := by decide

/-- V-ALU-39: an all-zero mask gives 0 for every draw. -/
theorem test_rnd_zero_mask (r : Byte) : (rndWith r 1 0x00 State.reset).reg 1 = 0 := by
  simp [rndWith, State.advance]

/-! ## Index register, stores, loads -/

/-- V-IDX-1. -/
theorem test_ldI : after (State.reset.setIndex 0xFFFF) 0xA2F0 (·.index) = some 0x02F0 := by decide

/-- V-IDX-2, V-IDX-3. -/
theorem test_addI :
    after (atIndex 0x0FFE 1 5) 0xF11E (·.index) = some 0x1003 ∧
    after ((atIndex 0xFFFF 1 2).setReg 15 0x5A) 0xF11E (fun t => (t.index, t.reg 15)) =
      some (0x0001, 0x5A) := by decide

/-- V-IDX-5, V-IDX-6: Vx is not masked. -/
theorem test_ldF :
    after (State.reset.setReg 2 0x10) 0xF229 (·.index) = some 0x50 ∧
    after (State.reset.setReg 2 0xFF) 0xF229 (·.index) = some 0x4FB := by decide

/-- V-IDX-8: the third digit wraps to 0x000 and overwrites a font byte. -/
theorem test_ldB_wraps :
    after (atIndex 0x0FFE 1 123) 0xF133
      (fun t => (t.mem.read 0xFFE, t.mem.read 0xFFF, t.mem.read 0x000, t.mem.read 0x001)) =
      some (1, 2, 3, 0x90) := by decide

/-- V-IDX-7. -/
theorem test_ldB_255 :
    after (atIndex 0x300 1 255) 0xF133
      (fun t => (t.mem.read 0x300, t.mem.read 0x301, t.mem.read 0x302, t.index)) =
      some (2, 5, 5, 0x300) := by decide

/-- V-IDX-10: V3 is not stored. -/
theorem test_storeRegs :
    after ((((atIndex 0x300 0 0x11).setReg 1 0x22).setReg 2 0x33).setReg 3 0x44) 0xF255
      (fun t => (t.mem.read 0x300, t.mem.read 0x301, t.mem.read 0x302, t.mem.read 0x303, t.index)) =
      some (0x11, 0x22, 0x33, 0, 0x300) := by decide

/-- V-IDX-14: the load wraps from 0xFFF to the font. -/
theorem test_loadRegs :
    after (withBytes (atIndex 0x0FFF 3 0x99) 0xFFF [0xAA]) 0xF265
      (fun t => (t.reg 0, t.reg 1, t.reg 2, t.reg 3)) = some (0xAA, 0xF0, 0x90, 0x99) := by decide

/-! ## Framebuffer -/

/-- V-DRW-16, by the cells that were on: VF is left alone. -/
theorem test_cls :
    after ((State.reset.setFb (lit [(0, 0), (31, 63)])).setReg 15 1) 0x00E0
      (fun t => (t.pixel 0 0, t.pixel 31 63, t.reg 15, t.pc)) =
      some (false, false, 1, 0x202) := by decide

/-- V-DRW-3: a sprite at column 60 wraps to columns 0 to 3 of its own row, and no further. -/
theorem test_drw_wraps_columns :
    after (withBytes ((regs 1 60 2 5).setIndex 0x300) 0x300 [0xFF]) 0xD121
      (fun t => ([59, 60, 63, 0, 3, 4].map (t.pixel 5), [60, 63, 0, 3].map (t.pixel 6), t.reg 15)) =
      some ([false, true, true, true, true, false], [false, false, false, false], 0) := by decide

/-- V-DRW-8: one cell goes off. -/
theorem test_drw_collides :
    after (withBytes ((State.reset.setFb (lit [(0, 1), (0, 7)])).setIndex 0x300) 0x300 [0xF0]) 0xD121
      (fun t => ([0, 1, 2, 3, 4, 7].map (t.pixel 0), t.reg 15)) =
      some ([true, false, true, true, false, true], 1) := by decide

/-! ## Keys and timers -/

/-- V-KEY-1, V-KEY-2. -/
theorem test_skp :
    after ((State.reset.setReg 4 7).setKeys (pressed [7])) 0xE49E (·.pc) = some 0x204 ∧
    after (State.reset.setReg 4 7) 0xE49E (·.pc) = some 0x202 := by decide

/-- V-KEY-5: a value above 15 selects by its low four bits (decision D6). -/
theorem test_skp_low_nibble :
    after ((State.reset.setReg 4 0x17).setKeys (pressed [7])) 0xE49E (·.pc) = some 0x204 := by decide

/-- V-KEY-3, V-KEY-4. -/
theorem test_sknp :
    after ((State.reset.setReg 4 7).setKeys (pressed [7])) 0xE4A1 (·.pc) = some 0x202 ∧
    after (State.reset.setReg 4 7) 0xE4A1 (·.pc) = some 0x204 := by decide

/-- V-KEY-6: the wait. -/
theorem test_ldVxK_waits :
    after (State.reset.setReg 5 0x77) 0xF50A (fun t => (t.pc, t.reg 5, t.awaitKey)) =
      some (0x200, 0x77, true) := by decide

/-- V-KEY-8: the lowest of three keys. -/
theorem test_ldVxK_takes_least :
    after (State.reset.setKeys (pressed [2, 4, 0xC])) 0xF50A
      (fun t => (t.reg 5, t.pc, t.awaitKey)) = some (2, 0x202, false) := by decide

/-- V-TMR-1. -/
theorem test_ldVxDt :
    after (State.reset.setDt 0x2A) 0xF307 (fun t => (t.reg 3, t.dt)) = some (0x2A, 0x2A) := by decide

/-- V-TMR-2. -/
theorem test_ldDtVx : after (State.reset.setReg 3 0x3C) 0xF315 (·.dt) = some 0x3C := by decide

/-- V-TMR-3: no pulse from an instruction. -/
theorem test_ldStVx :
    after (State.reset.setReg 3 5) 0xF318 (fun t => (t.st, t.soundActive, t.soundOffEdge)) =
      some (5, true, false) ∧
    after (State.reset.setSt 9) 0xF318 (fun t => (t.st, t.soundActive, t.soundOffEdge)) =
      some (0, false, false) := by decide

/-! ## Events -/

/-- V-TMR-4, its second tick: ST goes from 1 to 0 and pulses. -/
theorem test_tick_pulses :
    afterEvent ((State.reset.setDt 2).setSt 1) .tick
      (fun t => (t.dt, t.st, t.soundOffEdge, t.soundActive)) = some (1, 0, true, false) := by decide

/-- V-TMR-6: a tick still acts on a halted machine. -/
theorem test_tick_while_halted :
    afterEvent ((State.reset.setFault ⟨.decodeFailure, 0xFFFF, 0x200⟩).setDt 5) .tick
      (fun t => (t.dt, t.fault.kind)) = some (4, .decodeFailure) := by decide

/-- V-FLT-3: the empty image faults at its first word. -/
theorem test_empty_image_faults :
    afterEvent State.reset .step (fun t => (t.fault, t.pc)) =
      some (⟨.decodeFailure, 0x0000, 0x200⟩, 0x200) := by decide

/-- V-FLOW-12: a fetch at 0xFFF takes its low byte from 0x000. -/
theorem test_fetch_wraps :
    afterEvent ((withBytes State.reset 0xFFF [0x60]).setPc 0xFFF) .step (fun t => (t.reg 0, t.pc)) =
      some (0xF0, 0x1000 + 1) := by decide

/-- V-MEM-2: an image of three bytes, the font, zeros. -/
theorem test_install :
    afterEvent State.reset (.install [0xAA, 0xBB, 0xCC])
      (fun t => [t.mem.read 0x000, t.mem.read 0x004, t.mem.read 0x04F, t.mem.read 0x050,
        t.mem.read 0x200, t.mem.read 0x202, t.mem.read 0x203, t.mem.read 0xFFF]) =
      some [0xF0, 0xF0, 0x80, 0, 0xAA, 0xCC, 0, 0] := by decide

/-- V-MEM-3: 3585 bytes are refused. -/
theorem test_install_refuses_long_image :
    ∀ image : List Byte, image.length = 3585 →
      runEvent (.install image) State.reset = .refused (.imageTooLong 3585) := by
  intro image h
  have hs : State.reset.started = false := rfl
  have hl : 3585 > Config.progMax := by decide
  simp only [runEvent, installImage, hs, h, if_pos hl, Bool.false_eq_true, if_false]

/-- V-FLT-2: `Reset` clears a latched fault. -/
theorem test_reset_clears_fault :
    afterEvent (State.reset.setFault ⟨.stackOverflow, 0x2200, 0x200⟩) .reset (·.fault) =
      some ⟨.noFault, 0, 0⟩ := by decide

/-- The three fault kinds' codes (R27, R150). -/
theorem test_fault_codes :
    [FaultKind.noFault, .decodeFailure, .stackUnderflow, .stackOverflow].map FaultKind.code =
      [0, 1, 2, 3] := by decide

/-- The font has 80 bytes (R4). -/
theorem test_font_length : Config.font.length = 80 := by decide

/-! ## Witnesses: for every statement that has hypotheses, a concrete case that meets them together; for a
statement with several clauses, one for each clause, at a boundary of its range -/

/-- A state whose memory is not the reset memory: bytes on both sides of the wrap at 0xFFF. -/
def wrapped : State := withBytes State.reset 0xFFF [0xAA, 0xBB]

/-- A machine that a DecodeFailure has halted, with events still to come. -/
def halted : State :=
  ((State.reset.setFault ⟨.decodeFailure, 0x0000, 0x200⟩).setStarted true).setAgenda [.tick, .step]

/-- The instruction `F50A` at pc, and the machine waiting in it. -/
def waiting : State :=
  ((withBytes State.reset 0x200 [0xF5, 0x0A]).setStarted true).setAwaitKey true

/-- One sprite row 0xFF at 0x300, I there, V1 = 60, V2 = 5. -/
def oneRow : State := withBytes ((regs 1 60 2 5).setIndex 0x300) 0x300 [0xFF]

theorem witness_decodeOfEncode : WellFormed (.drw 15 15 15) = true := by decide

theorem witness_encodeOfDecode : decode 0xDFFF = some (.drw 15 15 15) := by decide

theorem witness_stepRuns :
    let s := withBytes State.reset 0x200 [0x1A, 0xBC]
    s.faultFree ∧ decode (wordAtPc s) = some (.jp 0xABC) ∧ s.agenda = [] :=
  ⟨rfl, by decide, rfl⟩

theorem witness_stepRuns_from_agenda :
    let s := (withBytes State.reset 0x200 [0x1A, 0xBC]).setAgenda [.step, .tick]
    s.faultFree ∧ decode (wordAtPc s) = some (.jp 0xABC) ∧ s.agenda = .step :: [.tick] :=
  ⟨rfl, by decide, rfl⟩

theorem witness_placed : wrapped.mem.wf = true ∧ decode 0x1ABC = some (.jp 0xABC) := by decide

theorem witness_illegal :
    State.reset.agenda = [] ∧ State.reset.faultFree ∧ decode (wordAtPc State.reset) = none :=
  ⟨rfl, rfl, by decide⟩

theorem witness_halted : halted.fault.kind ≠ .noFault := by decide

theorem halted_truthful : FaultLatchTruthful halted := ⟨rfl, rfl, by decide, by decide⟩

theorem witness_haltIsForGood :
    FaultLatchTruthful halted ∧ halted.fault.kind ≠ .noFault ∧ .reset ∉ halted.agenda ∧
      ∃ t, Host.Core.run Sys2Proof.core 2 halted = .next t :=
  ⟨halted_truthful, by decide, by decide, _, rfl⟩

theorem witness_twoByteRead :
    (0x000 : Addr).toNat = ((0xFFF : Addr).toNat + 1) % 4096 ∧
    (0x201 : Addr).toNat = ((0x200 : Addr).toNat + 1) % 4096 := by decide

theorem witness_fetchDepends : (0x1200 : Word).toNat % 4096 = State.reset.pc.toNat % 4096 := by decide

theorem witness_call :
    (State.reset.setStack State.reset.stack 15).sp.val < 16 ∧
    (State.reset.setStack State.reset.stack 16).sp.val = 16 := by decide

theorem witness_return :
    (State.reset.setStack State.reset.stack 16).sp.val = (15 : Fin 16).val + 1 ∧
    State.reset.sp.val = 0 := by decide

theorem witness_returnUndoes :
    ∃ t w, State.reset.sp.val = (0 : Fin 16).val ∧ exec (.call 0x300) State.reset = .next t ∧
      t.sp = t.sp ∧ t.stack.get (0 : Fin 16) = t.stack.get (0 : Fin 16) ∧ exec .ret t = .next w :=
  ⟨_, _, rfl, rfl, rfl, rfl, rfl⟩

/-- A skip's two cases: the condition holds, and it does not. -/
theorem witness_skips :
    ((regs 1 7 2 7).reg 1).toNat = ((regs 1 7 2 7).reg 2).toNat ∧
    ¬ ((regs 1 7 2 8).reg 1).toNat = ((regs 1 7 2 8).reg 2).toNat := by decide

theorem witness_keySkips :
    let s := (State.reset.setReg 4 0x1F).setKeys (pressed [15])
    (s.reg 4).toNat % 16 = (15 : Fin 16).val ∧ s.keys.get (15 : Fin 16) = true ∧
      ¬ s.keys.get (14 : Fin 16) = true := by decide

/-- Both flag cases of the add, at the boundary, with a destination that is not VF. -/
theorem witness_flagWriting :
    (1 : Reg) ≠ 15 ∧ ((regs 1 255 2 1).reg 1).toNat + ((regs 1 255 2 1).reg 2).toNat > 255 ∧
    ¬ ((regs 1 254 2 1).reg 1).toNat + ((regs 1 254 2 1).reg 2).toNat > 255 := by decide

theorem witness_random : (0x7F : Byte).getLsbD 7 = false ∧ (2 : Reg) ≠ 1 := by decide

/-- One instruction of each of the four groups of the statement about VF. -/
theorem witness_onlyFlagWriters :
    ((1 : Reg) ≠ 15 ∧ ∃ t, exec (.addReg 1 2) State.reset = .next t) ∧
    (15 < 16 ∧ ∃ t, exec (.drw 1 2 15) State.reset = .next t) ∧
    ((14 : Reg) ≠ 15 ∧ ∃ t, exec (.loadRegs 14) State.reset = .next t) ∧
    ∃ t, exec (.storeRegs 15) State.reset = .next t :=
  ⟨⟨by decide, _, rfl⟩, ⟨by decide, _, rfl⟩, ⟨by decide, _, rfl⟩, _, rfl⟩

/-- For `Fx33`, `Fx55` and the memory invariant: a canonical memory that lists cells. -/
theorem witness_canonicalMemory : MemoryCanonical wrapped ∧ wrapped.mem ≠ [] := by
  constructor
  · show wrapped.mem.wf = true
    decide
  · decide

/-- For `Fx33` at the wrap: an address outside the three digits. -/
theorem witness_bcd_frame :
    let s := State.reset.setIndex 0x0FFE
    a12 s.index = 0xFFE ∧ a12 (s.index + 2) = 0x000 ∧ (0x001 : Addr) ≠ a12 s.index ∧
      (0x001 : Addr) ≠ a12 (s.index + 1) ∧ (0x001 : Addr) ≠ a12 (s.index + 2) := by decide

/-- For `Fx55` with `x = 0`: an address outside the block. -/
theorem witness_blockStore_frame :
    ∀ r : Reg, r ≤ 0 →
      (0x301 : Addr) ≠ a12 ((State.reset.setIndex 0x300).index + BitVec.ofNat 16 r.val) := by decide

/-- For `Fx65`: a register of the block and one above it. -/
theorem witness_blockLoad : (2 : Reg) ≤ 2 ∧ (2 : Reg) < 3 := by decide

theorem witness_storeThenLoad :
    ∃ t w, MemoryCanonical (State.reset.setIndex 0xFFF8) ∧
      exec (.storeRegs 15) (State.reset.setIndex 0xFFF8) = .next t ∧
      t.index = (State.reset.setIndex 0xFFF8).index ∧
      (∀ r : Reg, r ≤ 15 →
        t.mem.read (a12 ((State.reset.setIndex 0xFFF8).index + BitVec.ofNat 16 r.val)) =
          t.mem.read (a12 ((State.reset.setIndex 0xFFF8).index + BitVec.ofNat 16 r.val))) ∧
      exec (.loadRegs 15) t = .next w :=
  ⟨_, _, rfl, rfl, rfl, fun _ _ => rfl, rfl⟩

/-- A block of all sixteen registers that covers the next word from below, with the pc at the wrap, and
an address that it does not cover. -/
theorem witness_storeIsSeen_block :
    let s := (State.reset.setIndex 0x0FF1).setPc 0x0FFD
    MemoryCanonical s ∧ (∃ t, exec (.storeRegs 15) s = .next t) ∧
      14 < (15 : Reg).val + 1 ∧ a12 (s.pc + 2) = a12 (s.index + BitVec.ofNat 16 14) ∧
      a12 (s.pc + 3) = a12 (s.index + BitVec.ofNat 16 15) ∧
      ∀ k, k < 14 → a12 (s.pc + 2) ≠ a12 (s.index + BitVec.ofNat 16 k) :=
  ⟨rfl, ⟨_, rfl⟩, by decide, by decide, by decide, by decide⟩

/-- The three digits: the last one on the high byte of the next word, none on its low byte. -/
theorem witness_storeIsSeen_digits :
    let s := State.reset.setIndex 0x0200
    MemoryCanonical s ∧ (∃ t, exec (.ldB 1) s = .next t) ∧
      a12 (s.pc + 2) = a12 (s.index + BitVec.ofNat 16 2) ∧
      ∀ k, k < 3 → a12 (s.pc + 3) ≠ a12 (s.index + BitVec.ofNat 16 k) :=
  ⟨rfl, ⟨_, rfl⟩, by decide, by decide⟩

theorem witness_onlyTheTwoStores :
    (∀ x, Instr.loadRegs 15 ≠ .ldB x) ∧ (∀ x, Instr.loadRegs 15 ≠ .storeRegs x) ∧
      ∃ t, exec (.loadRegs 15) wrapped = .next t :=
  ⟨by decide, by decide, _, rfl⟩

theorem witness_canonicalMemories :
    Memory.wf [(0xFFF, 0x01)] = true ∧ ∀ a, Memory.read [(0xFFF, 0x01)] a = Memory.read [(0xFFF, 0x01)] a :=
  ⟨by decide, fun _ => rfl⟩

/-- The draw: a covered cell (past the right edge) and one that is not, and neither collision case empty. -/
theorem witness_draw :
    WellFormed (.drw 1 2 1) = true ∧
    SpriteCovers oneRow (oneRow.reg 1) (oneRow.reg 2) 1 5 3 ∧
    ¬ SpriteCovers oneRow (oneRow.reg 1) (oneRow.reg 2) 0 5 3 ∧
    (oneRow.setFb (lit [(5, 3)])).pixel 5 3 = true ∧ oneRow.pixel 5 3 = false :=
  ⟨by decide, ⟨0, 7, by decide, by decide, by decide, by decide, by decide⟩,
    fun ⟨_, _, h, _⟩ => absurd h (Nat.not_lt_zero _), by decide, by decide⟩

theorem witness_drawTwice :
    ∃ t w, WellFormed (.drw 1 2 1) = true ∧ exec (.drw 1 2 1) oneRow = .next t ∧
      (∀ row col, t.pixel row col = t.pixel row col) ∧ t.reg 1 = oneRow.reg 1 ∧
      t.reg 2 = oneRow.reg 2 ∧ t.index = oneRow.index ∧
      (∀ r, r < 1 → t.mem.read (a12 (oneRow.index + BitVec.ofNat 16 r)) =
        oneRow.mem.read (a12 (oneRow.index + BitVec.ofNat 16 r))) ∧
      exec (.drw 1 2 1) t = .next w :=
  ⟨_, _, rfl, rfl, fun _ _ => rfl, by decide, by decide, rfl, fun _ _ => rfl, rfl⟩

/-- The last clause's case: every cell under the sprite was off. -/
theorem witness_drawTwice_from_clear :
    ∀ row col, SpriteCovers oneRow (oneRow.reg 1) (oneRow.reg 2) 1 row col →
      oneRow.pixel row col = false :=
  fun row col _ => cell_blankFramebuffer row col

theorem witness_drawWraps_columns :
    WellFormed (.drw 1 2 1) = true ∧ (∃ t, exec (.drw 1 2 1) oneRow = .next t) ∧
      (oneRow.reg 1).toNat = 60 ∧ 0 < 1 ∧
      oneRow.mem.read (a12 (oneRow.index + BitVec.ofNat 16 0)) = 0xFF ∧
      (5 : Fin 32).val = ((oneRow.reg 2).toNat + 0) % 32 :=
  ⟨by decide, ⟨_, rfl⟩, by decide, by decide, by decide, by decide⟩

theorem witness_drawWraps_rows :
    let s := regs 1 0 2 30
    WellFormed (.drw 1 2 4) = true ∧ (∃ t, exec (.drw 1 2 4) s = .next t) ∧
      (s.reg 2).toNat = 30 ∧ (2 : Fin 32).val ∉ [30, 31, 0, 1] ∧ (1 : Fin 32).val = (30 + 3) % 32 :=
  ⟨by decide, ⟨_, rfl⟩, by decide, by decide, by decide⟩

theorem witness_onlyClearAndDraw :
    Instr.ldI 0xFFF ≠ .cls ∧ (∀ x y n, Instr.ldI 0xFFF ≠ .drw x y n) ∧
      ∃ t, exec (.ldI 0xFFF) State.reset = .next t :=
  ⟨by decide, nofun, _, rfl⟩

/-- The wait: no key at all, and only the last key. -/
theorem witness_waitForKey :
    (∀ k, State.reset.keys.get k = false) ∧
    (pressed [15]).get (15 : Fin 16) = true ∧ ∀ j : Fin 16, j < 15 → (pressed [15]).get j = false := by
  decide

theorem witness_tick :
    ((State.reset.setSt 1).setAgenda [.tick]).agenda = .tick :: [] ∧ (State.reset.setSt 1).st.toNat = 1 := by
  decide

theorem witness_timers :
    (State.reset.setAgenda [.tick, .tick, .step]).agenda = List.replicate 2 .tick ++ [.step] ∧
    (Event.step ≠ .tick ∧ Event.step ≠ .reset ∧ (∃ t, runEvent .step wrapped = .next t) ∧
      (Event.step = .step → ∀ x, decode wrapped.fetch ≠ some (.ldDtVx x)) ∧
      (Event.step = .step → ∀ x, decode wrapped.fetch ≠ some (.ldStVx x))) ∧
    (∃ t, exec (.ldDtVx 15) wrapped = .next t) ∧ (∃ t, exec (.ldStVx 15) wrapped = .next t) ∧
    ∃ t, exec (.ldVxDt 15) wrapped = .next t :=
  ⟨by decide, ⟨by decide, by decide, ⟨_, rfl⟩, by decide, by decide⟩, ⟨_, rfl⟩, ⟨_, rfl⟩, _, rfl⟩

theorem witness_setKeys :
    (State.reset.setAgenda [.setKeys (pressed [0, 15])]).agenda = .setKeys (pressed [0, 15]) :: [] ∧
    (∃ t, exec (.ldVxK 0) (State.reset.setKeys (pressed [15])) = .next t) ∧
    (∃ t, runEvent .step wrapped = .next t) ∧ ∃ t, runEvent .tick wrapped = .next t :=
  ⟨rfl, ⟨_, rfl⟩, ⟨_, rfl⟩, _, rfl⟩

/-- `8124` reads neither a timer nor a key. -/
theorem witness_commute :
    (∃ t, exec (.addReg 1 2) (State.reset.setSt 1) = .next t) ∧
    (∀ x, Instr.addReg 1 2 ≠ .ldVxDt x) ∧ (∀ x, Instr.addReg 1 2 ≠ .ldDtVx x) ∧
    (∀ x, Instr.addReg 1 2 ≠ .ldStVx x) ∧ (∀ x, Instr.addReg 1 2 ≠ .skp x) ∧
    (∀ x, Instr.addReg 1 2 ≠ .sknp x) ∧ ∀ x, Instr.addReg 1 2 ≠ .ldVxK x :=
  ⟨⟨_, rfl⟩, by decide, by decide, by decide, by decide, by decide, by decide⟩

theorem witness_resetEvent : (halted.setAgenda [.reset, .step]).agenda = .reset :: [.step] := by decide

/-- An image that just fits, one a byte too long, and one after the first `Step`; in the first case an
address of the image, the byte there, and an address below it. -/
theorem witness_install :
    MemoryCanonical State.reset ∧ State.reset.started = false ∧
    (List.replicate 3584 (1 : Byte)).length ≤ 3584 ∧ 3584 < (List.replicate 3585 (1 : Byte)).length ∧
    (State.reset.setStarted true).started = true :=
  ⟨rfl, rfl, by rw [List.length_replicate], by rw [List.length_replicate]; decide, rfl⟩

theorem witness_install_addresses :
    (List.replicate 3584 (1 : Byte))[(0xFFF : Addr).toNat - 0x200]? = some 1 ∧
    0x200 ≤ (0xFFF : Addr).toNat ∧ (0x1FF : Addr).toNat < 0x200 :=
  ⟨by rw [List.getElem?_replicate]; decide, by decide, by decide⟩

theorem witness_finished :
    let s := withBytes State.reset 0x200 [0x12, 0x00]
    s.agenda = [] ∧ s.finished :=
  ⟨rfl, rfl, 0x200, by decide, by decide⟩

theorem witness_onlyCallAndReturn :
    Instr.jp 0xABC ≠ .ret ∧ (∀ nnn, Instr.jp 0xABC ≠ .call nnn) ∧
      ∃ t, exec (.jp 0xABC) State.reset = .next t :=
  ⟨by decide, nofun, _, rfl⟩

/-- A plain instruction at the 16-bit wrap, and the wait with and without a key. -/
theorem witness_sequentialPc :
    (Instr.cls ≠ .ret ∧ (∀ nnn, Instr.cls ≠ .call nnn) ∧ (∀ nnn, Instr.cls ≠ .jp nnn) ∧
      (∀ nnn, Instr.cls ≠ .jpV0 nnn) ∧ ∃ t, exec .cls (State.reset.setPc 0xFFFF) = .next t) ∧
    (∃ t, exec (.ldVxK 5) State.reset = .next t ∧ t.awaitKey = true) ∧
    ∃ t, exec (.ldVxK 5) (State.reset.setKeys (pressed [15])) = .next t ∧ t.awaitKey = false :=
  ⟨⟨by decide, nofun, nofun, nofun, _, rfl⟩, ⟨_, rfl, rfl⟩, _, rfl, rfl⟩

/-- The six skips at the 16-bit wrap: the first pc from which a taken one wraps, the last from which one
that is not taken does, and the key that a value above 15 names. -/
theorem witness_sequentialPc_skips :
    let s := (((regs 1 7 2 8).setReg 4 0x1F).setKeys (pressed [15])).setPc 0xFFFC
    let u := (((regs 1 7 2 8).setReg 4 0x1F).setKeys (pressed [15])).setPc 0xFFFF
    ((∃ t, exec (.seImm 1 7) s = .next t) ∧ (s.reg 1).toNat = (7 : Byte).toNat) ∧
    ((∃ t, exec (.sneImm 1 7) u = .next t) ∧ ¬ (u.reg 1).toNat ≠ (7 : Byte).toNat) ∧
    ((∃ t, exec (.seReg 1 2) u = .next t) ∧ ¬ (u.reg 1).toNat = (u.reg 2).toNat) ∧
    ((∃ t, exec (.sneReg 1 2) s = .next t) ∧ (s.reg 1).toNat ≠ (s.reg 2).toNat) ∧
    ((∃ t, exec (.skp 4) s = .next t) ∧ (s.reg 4).toNat % 16 = (15 : Fin 16).val ∧
      s.keys.get (15 : Fin 16) = true) ∧
    (∃ t, exec (.sknp 4) u = .next t) ∧ (u.reg 4).toNat % 16 = (15 : Fin 16).val ∧
      ¬ u.keys.get (15 : Fin 16) = false :=
  ⟨⟨⟨_, rfl⟩, by decide⟩, ⟨⟨_, rfl⟩, by decide⟩, ⟨⟨_, rfl⟩, by decide⟩, ⟨⟨_, rfl⟩, by decide⟩,
    ⟨⟨_, rfl⟩, by decide, by decide⟩, ⟨_, rfl⟩, by decide, by decide⟩

/-- The largest pc from which the next instruction in sequence, and the one after it, do not wrap. -/
theorem witness_nextInSequence :
    (State.reset.setPc 0xFFFD).pc.toNat + 2 < 65536 ∧ (State.reset.setPc 0xFFFB).pc.toNat + 4 < 65536 := by
  decide

/-- The memory invariant: a step from a canonical memory that lists cells. -/
theorem witness_stepKeepsMemory : MemoryCanonical wrapped ∧ ∃ t, step wrapped = .next t :=
  ⟨witness_canonicalMemory.1, _, rfl⟩

/-- The fault invariant: a step of a machine that is halted. -/
theorem witness_stepKeepsFault : FaultLatchTruthful halted ∧ ∃ t, step halted = .next t :=
  ⟨halted_truthful, _, rfl⟩

/-- The wait invariant: a step of a machine that waits. -/
theorem witness_stepKeepsAwaitKey :
    AwaitKeyMeansWaiting waiting ∧ waiting.awaitKey = true ∧ ∃ t, step waiting = .next t :=
  ⟨fun _ => ⟨rfl, rfl, 5, by decide⟩, rfl, _, rfl⟩

end Sys2Proof.Tests
end

section
/-! Proofs of the family `10_state.md`: who writes which part of the state, where pc goes, the flat view,
the reset state, and the invariant on AWAIT_KEY. -/

namespace Sys2Proof.Machine

/-! ## Rules about operations of the state -/

/-- `A12` reads the low twelve bits of a word and nothing else (20_memory.md R43). -/
theorem a12_congr {w w' : Word} (h : w.toNat % 4096 = w'.toNat % 4096) : a12 w = a12 w' := by
  apply BitVec.eq_of_toNat_eq
  simpa [a12] using h

/-- `KeySel` reads the flag of the key that the low four bits name (R146). -/
theorem keySel_eq_get {b : Byte} {k : Fin 16} (h : b.toNat % 16 = k.val) (keys : Keys) :
    keySel keys b = keys.get k := by
  have key : (b.extractLsb' 0 4).toFin = k := Fin.ext (by simpa using h)
  rw [keySel, key]

/-- The flat view is the core library's flattening of the rows (R25). -/
theorem State.flatView_eq_flatten (s : State) : s.flatView = s.fb.flatten.toList := by
  show _ = ((s.fb.toArray.map Vector.toArray).flatten).toList
  simp only [State.flatView, Array.toList_flatten, Array.toList_map, List.map_map]
  rfl

/-- A skip keeps the parity of pc, taken or not (R17, R90). -/
theorem State.skip_pc_parity (s : State) (c : Bool) :
    (s.skip c).pc.toNat % 2 = s.pc.toNat % 2 := by
  rw [State.skip_pc_toNat]
  cases c <;> simp only [if_true, if_false, Bool.false_eq_true] <;> omega

/-! ## Who writes a part of the state -/

/-- An instruction that does not list the registers leaves VF alone. -/
theorem exec_vf_of_regs_not_mem {i : Instr} {s t : State} (h : exec i s = .next t)
    (hi : .regs ∉ changes i) : t.reg 15 = s.reg 15 :=
  exec_sameExcept h .regs hi 15

/-- A register write whose destination is not VF leaves VF alone (R12). -/
theorem State.setReg_vf {x : Reg} (hx : x ≠ 15) (s : State) (b : Byte) :
    (s.setReg x b).reg 15 = s.reg 15 := by
  rw [State.setReg_reg, if_neg hx]

/-- A flag write leaves 0 or 1 in VF (R14). -/
theorem State.setFlag_vf (s : State) (f : Bool) :
    (s.setReg regVF (flagByte f)).reg 15 = 0 ∨ (s.setReg regVF (flagByte f)).reg 15 = 1 := by
  rw [State.setReg_reg, if_pos (show regVF = 15 from rfl)]
  cases f
  · exact .inl rfl
  · exact .inr rfl

/-- So does the flag write of an ALU instruction whose destination is not VF (R13). -/
theorem State.writeFlagResult_vf {x : Reg} (hx : x ≠ 15) (s : State) (f : Bool) (b : Byte) :
    (s.writeFlagResult x f b).reg 15 = 0 ∨ (s.writeFlagResult x f b).reg 15 = 1 := by
  rw [State.writeFlagResult, State.setReg_vf hx]
  exact s.setFlag_vf f

/-- A block load up to a register below VF leaves VF alone (R126). -/
theorem loadBlock_vf {x : Reg} (hx : x ≠ 15) (m : Memory) (base : Word) (v : Vector Byte 16) :
    (loadBlock m base (x.val + 1) v).get 15 = v.get 15 := by
  have below : x.val ≠ 15 := fun e => hx (Fin.ext e)
  have outside : ¬ (15 : Reg).val < x.val + 1 := by omega
  rw [loadBlock_get, if_neg outside]

/-- What `Fx0A` can do: it waits where no key is pressed, and else takes the least one (R142). -/
theorem exec_ldVxK_cases {x : Reg} {s t : State} (h : exec (.ldVxK x) s = .next t) :
    (leastKey s.keys = none ∧ t = s.setAwaitKey true) ∨
      ∃ k, leastKey s.keys = some k ∧
        t = ((s.setReg x (keyByte k)).setAwaitKey false).advance := by
  simp only [exec, execLdVxK] at h
  split at h <;> cases h
  · next hk => exact .inl ⟨hk, rfl⟩
  · next k hk => exact .inr ⟨k, hk, rfl⟩

end Sys2Proof.Machine

namespace Sys2Proof.Claims

open Sys2Proof.Machine

/-! ## Where pc goes -/

/-- A skip on a Boolean that decides `cond` makes the claims' move on `cond` (R90). -/
theorem skipMove_skip {s : State} {c : Bool} {cond : Prop} (hc : c = true ↔ cond) :
    SkipMove cond s (s.skip c) := by
  refine ⟨fun h => ?_, fun h => ?_⟩
  · rw [State.skip_pc_toNat, if_pos (hc.mpr h)]
  · rw [State.skip_pc_toNat, if_neg (fun e => h (hc.mp e))]

/-- An advance from the same pc moves pc by 2 and keeps its parity (R16, R17). -/
theorem advance_move_and_parity {s u : State} (hu : u.pc = s.pc) :
    u.advance.pc.toNat = (s.pc.toNat + 2) % 65536 ∧ u.advance.pc.toNat % 2 = s.pc.toNat % 2 := by
  have move := State.advance_pc_toNat u
  rw [hu] at move
  exact ⟨move, by omega⟩

end Sys2Proof.Claims

namespace Sys2Proof.Proofs

open Sys2Proof.Machine Sys2Proof.Claims

/-! ## AWAIT_KEY means waiting (R28, R32, R174) -/

/-- With AWAIT_KEY at 0 there is nothing to show. -/
theorem awaitKeyMeansWaiting_of_clear {s : State} (h : s.awaitKey = false) :
    AwaitKeyMeansWaiting s := by
  intro ha
  rw [h] at ha
  cases ha

/-- The invariant reads AWAIT_KEY, the mark of the first `Step`, FAULT and the word at pc. -/
theorem awaitKeyMeansWaiting_congr {s t : State} (ha : t.awaitKey = s.awaitKey)
    (hst : t.started = s.started) (hf : t.fault = s.fault) (hw : t.fetch = s.fetch)
    (h : AwaitKeyMeansWaiting s) : AwaitKeyMeansWaiting t := by
  simpa only [AwaitKeyMeansWaiting, State.faultFree, ha, hst, hf, hw] using h

/-- Only `Fx0A` writes AWAIT_KEY. -/
theorem exec_awaitKey_of_ne_ldVxK {i : Instr} {s t : State} (hi : ∀ x, i ≠ .ldVxK x)
    (h : exec i s = .next t) : t.awaitKey = s.awaitKey := by
  refine exec_sameExcept h .awaitKey ?_
  cases i <;> simp_all [changes]

/-- The instruction at pc, run with AWAIT_KEY cleared, leaves it set only where it is an `Fx0A` that
waits, and then pc still addresses it. -/
theorem exec_awaitKeyMeansWaiting {i : Instr} {s t : State} (hst : s.started = true)
    (hf : s.faultFree) (hi : decode s.fetch = some i)
    (h : exec i (s.setAwaitKey false) = .next t) : AwaitKeyMeansWaiting t := by
  by_cases hk : ∃ x, i = .ldVxK x
  · obtain ⟨x, rfl⟩ := hk
    obtain ⟨-, rfl⟩ | ⟨k, -, rfl⟩ := exec_ldVxK_cases h
    · exact fun _ => ⟨hst, hf, x, hi⟩
    · exact awaitKeyMeansWaiting_of_clear rfl
  · exact awaitKeyMeansWaiting_of_clear
      (exec_awaitKey_of_ne_ldVxK (fun x e => hk ⟨x, e⟩) h)

/-- The Executor keeps the invariant: a word that is no instruction finds AWAIT_KEY at 0 already. -/
theorem fetchDecodeExecute_awaitKeyMeansWaiting {s t : State} (hst : s.started = true)
    (hf : s.faultFree) (hs : AwaitKeyMeansWaiting s) (h : fetchDecodeExecute s = .next t) :
    AwaitKeyMeansWaiting t := by
  cases hi : decode s.fetch with
  | some i =>
    rw [fetchDecodeExecute_of_decode hi] at h
    exact exec_awaitKeyMeansWaiting hst hf hi h
  | none =>
    rw [fetchDecodeExecute_of_illegal hi] at h
    cases h
    intro ha
    obtain ⟨-, -, x, hx⟩ := hs ha
    rw [hi] at hx
    cases hx

/-- What a `Step` sees meets the invariant where the state does. -/
theorem quiet_started_awaitKeyMeansWaiting {s : State} (h : AwaitKeyMeansWaiting s) :
    AwaitKeyMeansWaiting (s.quiet.setStarted true) := fun ha => ⟨rfl, (h ha).2⟩

/-- A `Step` keeps the invariant: a halted machine keeps its state, any other one executes. -/
theorem stepEvent_awaitKeyMeansWaiting {s t : State} (hs : AwaitKeyMeansWaiting s)
    (h : stepEvent s = .next t) : AwaitKeyMeansWaiting t := by
  have seen := quiet_started_awaitKeyMeansWaiting hs
  unfold stepEvent at h
  split at h
  · cases h
    exact seen
  · next halted =>
    have running : (s.quiet.setStarted true).faultFree := by
      simpa [State.halted, State.faultFree, State.quiet] using halted
    exact fetchDecodeExecute_awaitKeyMeansWaiting rfl running seen h

/-- Every event keeps the invariant. `Install` writes memory, but only before the first `Step`, when
AWAIT_KEY cannot be set. -/
theorem runEvent_awaitKeyMeansWaiting {e : Event} {s t : State} (hs : AwaitKeyMeansWaiting s)
    (h : runEvent e s = .next t) : AwaitKeyMeansWaiting t := by
  cases e with
  | step => exact stepEvent_awaitKeyMeansWaiting hs h
  | tick =>
    cases h
    exact awaitKeyMeansWaiting_congr (s := s) rfl rfl rfl rfl hs
  | setKeys keys =>
    cases h
    exact awaitKeyMeansWaiting_congr (s := s) rfl rfl rfl rfl hs
  | reset =>
    cases h
    exact awaitKeyMeansWaiting_of_clear rfl
  | install bytes =>
    obtain ⟨notStarted, -, rfl⟩ := installImage_eq_next h
    intro ha
    obtain ⟨started, -⟩ := hs ha
    rw [notStarted] at started
    cases started

/-- Settles O57: the event the step performs keeps the invariant, and taking it off the agenda does. -/
theorem everyStepKeepsAwaitKeyMeaningWaiting :
    Obligations.EveryStepKeepsAwaitKeyMeaningWaiting := by
  intro s t hs h
  rw [step_of_agenda] at h
  split at h
  · exact stepEvent_awaitKeyMeansWaiting hs h
  · next e rest _ =>
    exact runEvent_awaitKeyMeansWaiting
      (awaitKeyMeansWaiting_congr (s := s) (t := s.setAgenda rest) rfl rfl rfl rfl hs) h

/-! ## Frames of the instructions -/

/-- Settles O26: the flag writers write the flag byte, a destination below VF is another register, and
every other instruction has no register among the parts it changes. -/
theorem onlyFlagWritersAndDestinationsTouchVF :
    Obligations.OnlyFlagWritersAndDestinationsTouchVF := by
  intro i s t h
  cases i
  case addReg | subReg | shr | subnReg | shl =>
    intro hx
    cases h
    exact State.writeFlagResult_vf hx _ _ _
  case drw =>
    intro _
    cases h
    exact State.setFlag_vf _ _
  case ldImm | addImm | ldReg | orReg | andReg | xorReg | rnd | ldVxDt =>
    intro hx
    cases h
    exact State.setReg_vf hx _ _
  case ldVxK x =>
    intro hx
    obtain ⟨-, rfl⟩ | ⟨k, -, rfl⟩ := exec_ldVxK_cases h
    · rfl
    · exact State.setReg_vf hx _ _
  case loadRegs x =>
    intro hx
    cases h
    exact loadBlock_vf hx _ _ _
  all_goals exact exec_vf_of_regs_not_mem h (by simp [changes])

/-- Settles O40: no other instruction has the framebuffer among the parts it changes. -/
theorem onlyClearAndDrawWriteTheFramebuffer : Obligations.OnlyClearAndDrawWriteTheFramebuffer := by
  intro i s t hcls hdrw h
  refine exec_sameExcept h .framebuffer ?_
  cases i <;> simp_all [changes]

/-- Settles O53: no other instruction has the stack or FAULT among the parts it changes. -/
theorem onlyCallAndReturnTouchStackAndFault : Obligations.OnlyCallAndReturnTouchStackAndFault := by
  intro i s t hret hcall h
  have untouched : .stack ∉ changes i ∧ .fault ∉ changes i := by
    cases i <;> simp_all [changes]
  obtain ⟨hstack, hfault⟩ := untouched
  obtain ⟨stack, sp⟩ := exec_sameExcept h .stack hstack
  exact ⟨stack, sp, exec_sameExcept h .fault hfault⟩

/-! ## Where pc goes -/

/-- Settles O54: a skip moves by its condition, `Fx0A` waits or advances, and every other instruction
ends in the advance; each of these keeps the parity of pc. -/
theorem sequentialPcMovesAndWraps : Obligations.SequentialPcMovesAndWraps := by
  intro i s t hret hcall hjp hjpV0 h
  cases i
  case ret => exact absurd rfl hret
  case call nnn => exact absurd rfl (hcall nnn)
  case jp nnn => exact absurd rfl (hjp nnn)
  case jpV0 nnn => exact absurd rfl (hjpV0 nnn)
  case seImm | seReg | sneImm | sneReg =>
    cases h
    exact ⟨skipMove_skip (by simp [BitVec.toNat_inj]), State.skip_pc_parity _ _⟩
  case skp x =>
    cases h
    exact ⟨fun k hk => skipMove_skip (by rw [keySel_eq_get hk]), State.skip_pc_parity _ _⟩
  case sknp x =>
    cases h
    exact ⟨fun k hk => skipMove_skip (by simp [keySel_eq_get hk]), State.skip_pc_parity _ _⟩
  case ldVxK x =>
    obtain ⟨-, rfl⟩ | ⟨k, -, rfl⟩ := exec_ldVxK_cases h
    · exact ⟨⟨fun _ => rfl, nofun⟩, rfl⟩
    · obtain ⟨move, parity⟩ := advance_move_and_parity (s := s)
        (u := (s.setReg x (keyByte k)).setAwaitKey false) rfl
      exact ⟨⟨nofun, fun _ => move⟩, parity⟩
  all_goals
    cases h
    exact advance_move_and_parity rfl

/-- Settles O14: the two addresses of the fetch agree. -/
theorem fetchDependsOnTwelveBitsOfPc : Obligations.FetchDependsOnTwelveBitsOfPc := by
  intro s w h
  show s.mem.read2 (a12 w) = s.mem.read2 (a12 s.pc)
  rw [a12_congr h]

/-! ## The flat view -/

/-- Settles O41: `64 * row + col` has quotient `row` and remainder `col` by the row length. -/
theorem flatViewIsRowMajor : Obligations.FlatViewIsRowMajor := by
  intro s
  rw [State.flatView_eq_flatten]
  refine ⟨Vector.length_toList, fun row col => ?_⟩
  have quot : (64 * row.val + col.val) / 64 = row.val := by omega
  have rem : (64 * row.val + col.val) % 64 = col.val := by omega
  have inside : 64 * row.val + col.val < 32 * 64 := by omega
  rw [Vector.getElem?_toList, Vector.getElem?_eq_getElem inside, Vector.getElem_flatten]
  simp only [quot, rem]
  rfl

/-! ## The state after reset -/

/-- An address reads after reset as the font table's byte, and as 0 above its 80 bytes (R30, R33). -/
theorem reset_mem_read (a : Addr) :
    State.reset.mem.read a = if a.toNat < 80 then Config.font.getD a.toNat 0 else 0 := by
  show Config.font.getD a.toNat 0 = _
  split
  · rfl
  · next h => exact List.getD_eq_default _ _ (Nat.le_of_not_lt h)

/-- Settles O49: each field of the reset state. -/
theorem resetStateValues : Obligations.ResetStateValues := by
  have registers : ∀ r, State.reset.reg r = 0 := fun r => by
    simp [State.reg, State.reset, Vector.get_eq_getElem, Config.vReset]
  have keysUp : ∀ k, State.reset.keys.get k = false := fun k => by
    simp [State.reset, Vector.get_eq_getElem]
  exact ⟨reset_mem_read, registers, rfl, rfl, rfl, rfl, rfl, cell_blankFramebuffer, keysUp,
    rfl, rfl, rfl, rfl⟩

/-- Settles O58: memory lists no cell, FAULT is clear with payload 0, and AWAIT_KEY is not set. -/
theorem resetMeetsTheInvariants : Obligations.ResetMeetsTheInvariants where
  memory := Memory.wf_nil
  fault := ⟨rfl, rfl⟩
  awaitKey := awaitKeyMeansWaiting_of_clear rfl

end Sys2Proof.Proofs
end

section
/-! Proofs of the family `20_memory.md`: what an instruction stores, the canonical form of memory, the
two-byte read, and what the fetch after a store sees. -/

namespace Sys2Proof.Machine.Memory

/-! ## The two-byte read -/

/-- `MemRead(a, 2)` as a number: big-endian (R41). -/
theorem read2_toNat (m : Memory) (a : Addr) :
    (m.read2 a).toNat = 256 * (m.read a).toNat + (m.read (a + 1)).toNat :=
  wordOfBytes_toNat _ _

/-! ## The canonical form determines the cells -/

variable {lo k : Nat} {c : Byte} {rest m m' : Memory}

theorem wfFrom_cell : wfFrom lo ((k, c) :: rest) = true ↔
    lo ≤ k ∧ k < Config.memSize ∧ c ≠ resetByte k ∧ wfFrom (k + 1) rest = true := by
  simp only [wfFrom, Bool.and_eq_true, decide_eq_true_eq, and_assoc]

/-- A first cell differs from its reset contents, so cells that begin above its address read otherwise
there. -/
theorem lookup_ne_of_wfFrom_succ (h : wfFrom lo ((k, c) :: rest) = true)
    (above : wfFrom (k + 1) m = true) : lookup ((k, c) :: rest) k ≠ lookup m k := by
  obtain ⟨-, -, changed, -⟩ := wfFrom_cell.mp h
  rw [lookup_cell, if_pos rfl, lookup_of_wfFrom above (Nat.lt_succ_self k)]
  exact changed

/-- Cells that read as canonical cells do at every address do not begin above them. -/
theorem head_le_of_lookup_eq {k' : Nat} {c' : Byte} {rest' : Memory}
    (h : wfFrom lo ((k, c) :: rest) = true) (h' : wfFrom lo ((k', c') :: rest') = true)
    (alike : ∀ a, a < Config.memSize →
      lookup ((k, c) :: rest) a = lookup ((k', c') :: rest') a) : k' ≤ k := by
  obtain ⟨-, inside, -, -⟩ := wfFrom_cell.mp h
  obtain ⟨-, inside', changed', canonical'⟩ := wfFrom_cell.mp h'
  by_contra gt
  have above : wfFrom (k + 1) ((k', c') :: rest') = true :=
    wfFrom_cell.mpr ⟨by omega, inside', changed', canonical'⟩
  exact lookup_ne_of_wfFrom_succ h above (alike k inside)

/-- Canonical cells that read alike at every address of memory are the same: the two first cells stand
at one address and hold one byte, and below and at that address the rests list nothing. -/
theorem eq_of_lookup_eq (h : wfFrom lo m = true) (h' : wfFrom lo m' = true)
    (alike : ∀ a, a < Config.memSize → lookup m a = lookup m' a) : m = m' := by
  induction m generalizing lo m' with
  | nil =>
    cases m' with
    | nil => rfl
    | cons cell' rest' =>
      obtain ⟨-, inside, -, -⟩ := wfFrom_cell.mp h'
      exact absurd (alike _ inside).symm (lookup_ne_of_wfFrom_succ h' rfl)
  | cons cell rest ih =>
    obtain ⟨k, c⟩ := cell
    obtain ⟨-, inside, -, canonical⟩ := wfFrom_cell.mp h
    cases m' with
    | nil => exact absurd (alike _ inside) (lookup_ne_of_wfFrom_succ h rfl)
    | cons cell' rest' =>
      obtain ⟨k', c'⟩ := cell'
      obtain rfl : k = k' := Nat.le_antisymm
        (head_le_of_lookup_eq h' h fun a ha => (alike a ha).symm) (head_le_of_lookup_eq h h' alike)
      obtain ⟨-, -, -, canonical'⟩ := wfFrom_cell.mp h'
      obtain rfl : c = c' := by simpa [lookup_cell] using alike k inside
      have restsAlike : ∀ a, a < Config.memSize → lookup rest a = lookup rest' a := by
        intro a ha
        by_cases below : a < k + 1
        · rw [lookup_of_wfFrom canonical below, lookup_of_wfFrom canonical' below]
        · simpa [lookup_cell, show k ≠ a by omega] using alike a ha
      rw [ih canonical canonical' restsAlike]

end Sys2Proof.Machine.Memory

namespace Sys2Proof.Machine

/-! ## What an instruction stores -/

/-- The bytes an instruction stores at `A12(I)` upward: none, but for `Fx33` and `Fx55` (R47). -/
def storedBytes : Instr → State → List Byte
  | .ldB x, s => bcdDigits (s.reg x)
  | .storeRegs x, s => s.regBlock x
  | _, _ => []

/-- What an instruction does to memory: it stores its bytes at `A12(I)` upward. -/
theorem exec_mem {i : Instr} {s t : State} (h : exec i s = .next t) :
    t.mem = s.mem.writeBytes s.index (storedBytes i s) := by
  cases i
  case call nnn =>
    simp only [exec, execCall] at h
    split at h <;> cases h
    · next u hu =>
      obtain ⟨_, rfl⟩ := State.push_eq_some hu
      rfl
    · rfl
  case ret =>
    simp only [exec, execRet] at h
    split at h <;> cases h
    · next w u hu =>
      obtain ⟨_, _, -, -, rfl⟩ := State.pop_eq_some hu
      rfl
    · rfl
  case ldVxK x => obtain ⟨-, rfl⟩ | ⟨_, -, rfl⟩ := exec_ldVxK_cases h <;> rfl
  case seImm | sneImm | seReg | sneReg | skp | sknp =>
    cases h
    rw [State.skip_eq]
    rfl
  all_goals
    cases h
    rfl

/-! ## The canonical form is kept -/

/-- Every instruction keeps memory canonical. -/
theorem exec_memoryCanonical {i : Instr} {s t : State} (hs : MemoryCanonical s)
    (h : exec i s = .next t) : MemoryCanonical t := by
  rw [MemoryCanonical, exec_mem h]
  exact Memory.wf_writeBytes _ hs _

/-- A `Step` keeps memory canonical: it writes none, or it executes an instruction. -/
theorem stepEvent_memoryCanonical {s t : State} (hs : MemoryCanonical s)
    (h : stepEvent s = .next t) : MemoryCanonical t := by
  unfold stepEvent at h
  split at h
  · cases h
    exact hs
  · cases hi : decode (s.quiet.setStarted true).fetch with
    | some i =>
      rw [fetchDecodeExecute_of_decode hi] at h
      exact exec_memoryCanonical (s := (s.quiet.setStarted true).setAwaitKey false) hs h
    | none =>
      rw [fetchDecodeExecute_of_illegal hi] at h
      cases h
      exact hs

/-- Every event keeps memory canonical. -/
theorem runEvent_memoryCanonical {e : Event} {s t : State} (hs : MemoryCanonical s)
    (h : runEvent e s = .next t) : MemoryCanonical t := by
  cases e with
  | step => exact stepEvent_memoryCanonical hs h
  | tick | setKeys keys =>
    cases h
    exact hs
  | reset =>
    cases h
    exact Memory.wf_nil
  | install bytes =>
    obtain ⟨-, -, rfl⟩ := installImage_eq_next h
    exact Memory.wf_writeBytes bytes hs _

end Sys2Proof.Machine

namespace Sys2Proof.Claims

open Sys2Proof.Machine

/-! ## The fetch after a store -/

/-- The word at pc as the claims write it, over the pc and the memory of the state. -/
theorem wordAtPc_of_pc {s : State} {w : Word} (h : s.pc = w) :
    wordAtPc s = s.mem.read (a12 w) ++ s.mem.read (a12 (w + 1)) := by
  rw [wordAtPc, h]

variable {s t : State} {bs : List Byte} {stored : Nat → Byte}

/-- After a block of writes at `A12(I)` upward every address holds what the claims say of a store. -/
theorem holdsAfterStore_writeBytes (hs : MemoryCanonical s) (hlen : bs.length ≤ 4096)
    (hbs : ∀ k, (hk : k < bs.length) → bs[k] = stored k) (a : Addr) :
    HoldsAfterStore s bs.length stored a ((s.mem.writeBytes s.index bs).read a) := by
  refine ⟨fun k hk e => ?_, fun outside => ?_⟩
  · rw [e, Memory.read_writeBytes_self bs hs s.index hlen hk, hbs k hk]
  · exact Memory.read_writeBytes_other bs s.mem s.index a fun k hk => (outside k hk).symm

/-- So the word after the instruction that made them is the one that the fetch at pc + 2 sees. -/
theorem nextWordAfterStore_writeBytes (hs : MemoryCanonical s) (hlen : bs.length ≤ 4096)
    (hbs : ∀ k, (hk : k < bs.length) → bs[k] = stored k)
    (hmem : t.mem = s.mem.writeBytes s.index bs) (hpc : t.pc = s.pc + 2) :
    NextWordAfterStore s t bs.length stored := by
  have second : s.pc + 2 + 1 = s.pc + 3 := BitVec.add_assoc _ _ _
  refine ⟨t.mem.read (a12 (s.pc + 2)), t.mem.read (a12 (s.pc + 3)), ?_, ?_, ?_⟩
  · rw [wordAtPc_of_pc hpc, second]
  all_goals
    rw [hmem]
    exact holdsAfterStore_writeBytes hs hlen hbs _

end Sys2Proof.Claims

namespace Sys2Proof.Proofs

open Sys2Proof.Machine Sys2Proof.Claims

/-- Settles O55: the event the step performs keeps the form, and taking it off the agenda does. -/
theorem everyStepKeepsMemoryCanonical : Obligations.EveryStepKeepsMemoryCanonical := by
  intro s t hs h
  rw [step_of_agenda] at h
  split at h
  · exact stepEvent_memoryCanonical hs h
  · next e rest _ => exact runEvent_memoryCanonical (s := s.setAgenda rest) hs h

/-- Settles O33: both are a block of writes at `A12(I)` upward followed by the advance. -/
theorem storeIsSeenByTheNextFetch : Obligations.StoreIsSeenByTheNextFetch := by
  intro x s t hs
  refine ⟨fun h => ?_, fun h => ?_⟩
  · have mem := exec_mem h
    cases h
    have len := s.regBlock_length x
    rw [← len]
    refine nextWordAfterStore_writeBytes hs (by omega) (fun k hk => ?_) mem rfl
    have named : (Fin.ofNat 16 k : Reg).val = k := Nat.mod_eq_of_lt (by omega)
    simpa only [named] using s.regBlock_getElem x (Fin.ofNat 16 k) (by rwa [named])
  · have mem := exec_mem h
    cases h
    refine nextWordAfterStore_writeBytes (bs := bcdDigits (s.reg x)) hs (by simp [bcdDigits])
      (fun k hk => ?_) mem rfl
    match k, hk with
    | 0, _ | 1, _ | 2, _ => rfl

/-- Settles O34: no other instruction has memory among the parts it changes. -/
theorem onlyTheTwoStoresWriteMemory : Obligations.OnlyTheTwoStoresWriteMemory := by
  intro i s t hldB hstoreRegs h
  refine exec_sameExcept h .memory ?_
  cases i <;> simp_all [changes]

/-- Settles O35: an address below 4096 is an address of memory. -/
theorem canonicalMemoriesThatReadAlikeAreEqual :
    Obligations.CanonicalMemoriesThatReadAlikeAreEqual := by
  intro m m' h h' alike
  refine Memory.eq_of_lookup_eq h h' fun a ha => ?_
  have read := alike (BitVec.ofNat 12 a)
  rwa [Memory.read, Memory.read, BitVec.toNat_ofNat, Nat.mod_eq_of_lt ha] at read

/-- Settles O13: the second address is `a + 1` in twelve bits. -/
theorem twoByteReadIsBigEndian : Obligations.TwoByteReadIsBigEndian := by
  intro m a b hb
  obtain rfl : b = a + 1 := BitVec.eq_of_toNat_eq (by rw [hb, BitVec.toNat_add]; rfl)
  exact m.read2_toNat a

end Sys2Proof.Proofs
end

section
/-! Proofs of the family `30_encoding.md`: the fields of the words the encoder makes, decoder and encoder
as each other's inverse, the opcode map, the assembler's lines, and the `Step` that runs the decoded
instruction. -/

namespace Sys2Proof

/-! ## The fields of an encoded word (R61, R62)

The opcode of formats NNN, XNN and XYN is a digit in bits 15:12 and zeros below it; that of format XKK has
a low byte as well. -/

section
variable {op : Nat} (hop : op ≤ 0xF000) (hlow : op % 4096 = 0)
include hop hlow

@[simp] theorem topNibble_wordNNN (nnn : Addr) : (topNibble (wordNNN op nnn)).toNat = op / 4096 := by
  rw [topNibble_toNat, wordNNN_toNat op nnn hop]
  omega

@[simp] theorem fieldNNN_wordNNN (nnn : Addr) : fieldNNN (wordNNN op nnn) = nnn := by
  apply BitVec.eq_of_toNat_eq
  rw [fieldNNN_toNat, wordNNN_toNat op nnn hop]
  omega

@[simp] theorem topNibble_wordXNN (x : Reg) (nn : Byte) :
    (topNibble (wordXNN op x nn)).toNat = op / 4096 := by
  rw [topNibble_toNat, wordXNN_toNat op x nn hop]
  omega

@[simp] theorem fieldX_wordXNN (x : Reg) (nn : Byte) : fieldX (wordXNN op x nn) = x := by
  apply Fin.ext
  rw [fieldX_val, wordXNN_toNat op x nn hop]
  omega

@[simp] theorem fieldNN_wordXNN (x : Reg) (nn : Byte) : fieldNN (wordXNN op x nn) = nn := by
  apply BitVec.eq_of_toNat_eq
  rw [fieldNN_toNat, wordXNN_toNat op x nn hop]
  omega

@[simp] theorem topNibble_wordXYN (x y : Reg) (n : Nat) :
    (topNibble (wordXYN op x y n)).toNat = op / 4096 := by
  rw [topNibble_toNat, wordXYN_toNat op x y n hop]
  omega

@[simp] theorem fieldX_wordXYN (x y : Reg) (n : Nat) : fieldX (wordXYN op x y n) = x := by
  apply Fin.ext
  rw [fieldX_val, wordXYN_toNat op x y n hop]
  omega

@[simp] theorem fieldY_wordXYN (x y : Reg) (n : Nat) : fieldY (wordXYN op x y n) = y := by
  apply Fin.ext
  rw [fieldY_val, wordXYN_toNat op x y n hop]
  omega

@[simp] theorem fieldN_wordXYN (x y : Reg) (n : Nat) : fieldN (wordXYN op x y n) = n % 16 := by
  rw [fieldN_eq, wordXYN_toNat op x y n hop]
  omega

end

section
variable {op : Nat} (hop : op ≤ 0xF0FF) (hx : op / 256 % 16 = 0)
include hop

@[simp] theorem fieldNN_wordXKK (x : Reg) : fieldNN (wordXKK op x) = BitVec.ofNat 8 op := by
  apply BitVec.eq_of_toNat_eq
  rw [fieldNN_toNat, wordXKK_toNat op x hop, BitVec.toNat_ofNat]
  omega

include hx

@[simp] theorem topNibble_wordXKK (x : Reg) : (topNibble (wordXKK op x)).toNat = op / 4096 := by
  rw [topNibble_toNat, wordXKK_toNat op x hop]
  omega

@[simp] theorem fieldX_wordXKK (x : Reg) : fieldX (wordXKK op x) = x := by
  apply Fin.ext
  rw [fieldX_val, wordXKK_toNat op x hop]
  omega

end

/-! ## A word from its fields

The digits of a word, put back by the format its top nibble calls for, make the word again. -/

section
variable {w : Word} {top : Nat} (htop : (topNibble w).toNat = top)
include htop

theorem wordNNN_of_fields : wordNNN (4096 * top) (fieldNNN w) = w := by
  apply BitVec.eq_of_toNat_eq
  rw [topNibble_toNat] at htop
  rw [wordNNN_toNat _ _ (by omega), fieldNNN_toNat]
  omega

theorem wordXNN_of_fields : wordXNN (4096 * top) (fieldX w) (fieldNN w) = w := by
  apply BitVec.eq_of_toNat_eq
  rw [topNibble_toNat] at htop
  rw [wordXNN_toNat _ _ _ (by omega), fieldX_val, fieldNN_toNat]
  omega

theorem wordXYN_of_fields {n : Nat} (hn : fieldN w = n) :
    wordXYN (4096 * top) (fieldX w) (fieldY w) n = w := by
  apply BitVec.eq_of_toNat_eq
  rw [topNibble_toNat] at htop
  rw [fieldN_eq] at hn
  rw [wordXYN_toNat _ _ _ _ (by omega), fieldX_val, fieldY_val]
  omega

theorem wordXKK_of_fields {nn : Byte} (hnn : fieldNN w = nn) :
    wordXKK (4096 * top + nn.toNat) (fieldX w) = w := by
  rw [wordXKK, Nat.add_right_comm, ← hnn]
  exact wordXNN_of_fields htop

end

/-! ## Decoder and encoder are inverse -/

/-- The top nibble of an encoded instruction names its family, and the fields of the word are its
operands. -/
theorem decode_encode {i : Instr} (h : WellFormed i = true) : decode (encode i) = some i := by
  cases i
  case cls | ret => decide
  case jp | call | ldI | jpV0 | seImm | sneImm | ldImm | addImm | rnd | seReg | sneReg =>
    simp [encode, decode]
  case ldReg | orReg | andReg | xorReg | addReg | subReg | shr | subnReg | shl =>
    simp [encode, decode, decodeFamily8]
  case drw x y n =>
    have rows : n % 16 = n := Nat.mod_eq_of_lt (of_decide_eq_true h)
    simp [encode, decode, rows]
  case skp | sknp => simp [encode, decode, decodeFamilyE]
  all_goals simp [encode, decode, decodeFamilyF]

section
variable {w : Word} {i : Instr}

theorem encode_of_decodeFamily0 (h : decodeFamily0 w = some i) :
    encode i = w ∧ WellFormed i = true := by
  unfold decodeFamily0 at h
  split_ifs at h <;> cases h
  all_goals next word => exact ⟨word.symm, rfl⟩

theorem encode_of_decodeFamily8 (top : (topNibble w).toNat = 0x8) (h : decodeFamily8 w = some i) :
    encode i = w ∧ WellFormed i = true := by
  unfold decodeFamily8 at h
  split at h <;> cases h
  all_goals next n => exact ⟨wordXYN_of_fields top n, rfl⟩

theorem encode_of_decodeFamilyE (top : (topNibble w).toNat = 0xE) (h : decodeFamilyE w = some i) :
    encode i = w ∧ WellFormed i = true := by
  unfold decodeFamilyE at h
  split_ifs at h <;> cases h
  all_goals next nn => exact ⟨wordXKK_of_fields top nn, rfl⟩

theorem encode_of_decodeFamilyF (top : (topNibble w).toNat = 0xF) (h : decodeFamilyF w = some i) :
    encode i = w ∧ WellFormed i = true := by
  unfold decodeFamilyF at h
  split_ifs at h <;> cases h
  all_goals next nn => exact ⟨wordXKK_of_fields top nn, rfl⟩

/-- A word that decodes is put together again from the fields its instruction holds. The cases are those
of the decode procedure, in the order of the top nibble from 0x0 to 0xF. -/
theorem encode_of_decode (h : decode w = some i) : encode i = w ∧ WellFormed i = true := by
  unfold decode at h
  split at h
  case h_1 => exact encode_of_decodeFamily0 h
  case h_2 top | h_3 top | h_11 top | h_12 top =>
    cases h
    exact ⟨wordNNN_of_fields top, rfl⟩
  case h_4 top | h_5 top | h_7 top | h_8 top | h_13 top =>
    cases h
    exact ⟨wordXNN_of_fields top, rfl⟩
  case h_6 top | h_10 top =>
    split at h <;> cases h
    next n => exact ⟨wordXYN_of_fields top n, rfl⟩
  case h_9 top => exact encode_of_decodeFamily8 top h
  case h_14 top =>
    cases h
    have rows : fieldN w < 16 := by
      rw [fieldN_eq]
      exact Nat.mod_lt _ (by decide)
    exact ⟨wordXYN_of_fields top rfl, decide_eq_true rows⟩
  case h_15 top => exact encode_of_decodeFamilyE top h
  case h_16 =>
    have digit : (topNibble w).toNat < 16 := (topNibble w).isLt
    have top : (topNibble w).toNat = 0xF := by
      simp only [imp_false] at *
      omega
    exact encode_of_decodeFamilyF top h

end

/-! ## The rows of the opcode map (R63)

Each of the four masks keeps the top nibble, so selecting a row is having its digits. -/

/-- A mask that keeps the top nibble, and of the low twelve bits those of `low`. -/
theorem and_top_append_toNat (w : Word) (low : Addr) :
    (w &&& (0xF#4 ++ low)).toNat =
      4096 * (topNibble w).toNat + (w.toNat % 4096 &&& low.toNat) := by
  have digits : topNibble w ++ fieldNNN w = w :=
    (BitVec.extractLsb'_append_extractLsb'_eq_extractLsb' (Nat.zero_add 12).symm).trans
      BitVec.extractLsb'_eq_self
  have top : topNibble w &&& 0xF#4 = topNibble w := BitVec.and_allOnes
  have masked : w &&& (0xF#4 ++ low) = topNibble w ++ (fieldNNN w &&& low) := by
    conv_lhs => rw [← digits, BitVec.and_append, top]
  rw [masked, BitVec.toNat_append, ← Nat.shiftLeft_add_eq_or_of_lt (BitVec.isLt _),
    Nat.shiftLeft_eq, Nat.mul_comm, BitVec.toNat_and, fieldNNN_toNat]

section
variable {w v : Word}

theorem and_FFFF_eq_iff :
    w &&& 0xFFFF#16 = v ↔ (topNibble w).toNat = v.toNat / 4096 ∧ w = v := by
  have all : w &&& 0xFFFF#16 = w := BitVec.and_allOnes
  rw [all, topNibble_toNat]
  refine ⟨fun e => ⟨?_, e⟩, And.right⟩
  rw [e]
  omega

theorem and_F000_eq_iff (hv : v.toNat % 4096 = 0) :
    w &&& 0xF000#16 = v ↔ (topNibble w).toNat = v.toNat / 4096 := by
  have masked : (w &&& 0xF000#16).toNat = _ + (_ &&& 0) := and_top_append_toNat w 0
  rw [← BitVec.toNat_inj, masked, Nat.and_zero]
  omega

theorem and_F00F_eq_iff (hv : v.toNat / 16 % 256 = 0) :
    w &&& 0xF00F#16 = v ↔ (topNibble w).toNat = v.toNat / 4096 ∧ fieldN w = v.toNat % 16 := by
  have masked : (w &&& 0xF00F#16).toNat = _ + (_ &&& (2 ^ 4 - 1)) := and_top_append_toNat w 0x00F
  rw [← BitVec.toNat_inj, masked, Nat.and_two_pow_sub_one_eq_mod, fieldN_eq]
  omega

theorem and_F0FF_eq_iff (hv : v.toNat / 256 % 16 = 0) :
    w &&& 0xF0FF#16 = v ↔
      (topNibble w).toNat = v.toNat / 4096 ∧ fieldNN w = BitVec.ofNat 8 v.toNat := by
  have masked : (w &&& 0xF0FF#16).toNat = _ + (_ &&& (2 ^ 8 - 1)) := and_top_append_toNat w 0x0FF
  rw [← BitVec.toNat_inj, masked, Nat.and_two_pow_sub_one_eq_mod, ← BitVec.toNat_inj, fieldNN_toNat,
    BitVec.toNat_ofNat]
  omega

@[simp] theorem OpcodeRow.selectedBy_eq_true {r : OpcodeRow} :
    r.selectedBy w = true ↔ w &&& r.mask = r.value := decide_eq_true_iff

end

/-- The lookup reads the first row if the word selects it, and else looks further down. -/
theorem read_find?_cons (w : Word) (r : OpcodeRow) (rows : List OpcodeRow) :
    ((r :: rows).find? (fun r => r.selectedBy w)).map (fun r => r.read w) =
      if r.selectedBy w = true then some (r.read w)
      else (rows.find? (fun r => r.selectedBy w)).map (fun r => r.read w) := by
  rw [List.find?_cons]
  cases r.selectedBy w <;> rfl

/-- For each top nibble the lookup tries the rows of that family, and so does the decode procedure. -/
theorem decode_eq_decodeByTable (w : Word) : decode w = decodeByTable w := by
  have digit := (topNibble w).isLt
  interval_cases top : (topNibble w).toNat
  all_goals
    simp [decode, decodeByTable, opcodeTable, read_find?_cons, and_FFFF_eq_iff, and_F000_eq_iff,
      and_F00F_eq_iff, and_F0FF_eq_iff, top, decodeFamily0, decodeFamilyE, decodeFamilyF]
  -- left is family 8, whose low nibble the decode procedure matches
  unfold decodeFamily8
  split <;> simp_all

/-- Two rows whose values differ on a bit that both masks keep. -/
def OpcodeRow.Clash (r r' : OpcodeRow) : Prop := r.value &&& r'.mask ≠ r'.value &&& r.mask

theorem opcodeTable_pairwise_clash : opcodeTable.Pairwise OpcodeRow.Clash := by
  unfold OpcodeRow.Clash
  decide

/-- A word that selects a row has its value on those bits, so it selects no row that clashes with it. -/
theorem OpcodeRow.Clash.not_selectedBy {r r' : OpcodeRow} (clash : r.Clash r') {w : Word}
    (h : r.selectedBy w = true) : r'.selectedBy w = false := by
  refine decide_eq_false fun h' => clash ?_
  rw [← OpcodeRow.selectedBy_eq_true.mp h, ← h']
  ac_rfl

theorem length_selected_le_one (w : Word) {rows : List OpcodeRow}
    (clash : rows.Pairwise OpcodeRow.Clash) :
    (rows.filter (fun r => r.selectedBy w)).length ≤ 1 := by
  induction clash with
  | nil => exact Nat.zero_le 1
  | @cons r rest clashes _ ih =>
    cases h : r.selectedBy w with
    | true =>
      have others : ∀ r' ∈ rest, r'.selectedBy w = false :=
        fun r' hr' => (clashes r' hr').not_selectedBy h
      simp [h, List.filter_eq_nil_iff.mpr (by simpa using others)]
    | false => simpa [h] using ih

/-! ## The assembler's lines (R72) -/

/-- A shift's line is read back with its `y` field, whether or not the line names it. -/
theorem assembleShift_shiftOperands (make : Reg → Reg → Instr) (x y : Reg) :
    assembleShift make (shiftOperands x y) = some (make x y) := by
  unfold shiftOperands
  split
  · next y0 => rw [y0]; rfl
  · rfl

/-! ## The bytes of a placed word (R45) -/

theorem tableBytes_toNat (w : Word) : tableBytes 16 w.toNat = bytesOfWord w := by
  rw [tableBytes, Nat.mod_eq_of_lt w.isLt, BitVec.ofNat_toNat, BitVec.setWidth_eq]

end Sys2Proof

namespace Sys2Proof.Claims

open Sys2Proof.Machine

/-! ## The word at pc and the step (R44, R60) -/

/-- Masking before or after the addition gives the same address (R43). -/
theorem a12_add_one (w : Word) : a12 (w + 1) = a12 w + 1 := by
  apply BitVec.eq_of_toNat_eq
  simp [a12]

/-- What the machine fetches is the word at pc as the claims write it. -/
theorem fetch_eq_wordAtPc (s : State) : s.fetch = wordAtPc s := by
  rw [wordAtPc, a12_add_one]
  rfl

/-- A `Step` with no fault latched runs the instruction at pc on the state as the instruction sees it. -/
theorem stepEvent_eq_exec {s : State} {i : Instr} (hf : s.faultFree)
    (hi : decode (wordAtPc s) = some i) : stepEvent s = exec i (seenBy s) := by
  have running : ¬ s.halted = true := by
    simp [State.halted, show s.fault.kind = .noFault from hf]
  rw [← fetch_eq_wordAtPc] at hi
  rw [stepEvent, if_neg running]
  exact fetchDecodeExecute_of_decode (s := s.quiet.setStarted true) hi

/-- The two bytes of a word, stored at pc, are read back as the word. -/
theorem wordAtPc_setMem_bytesOfWord {s : State} (h : s.mem.wf = true) (w : Word) :
    wordAtPc (s.setMem (s.mem.writeBytes s.pc (bytesOfWord w))) = w := by
  have two : (bytesOfWord w).length = 2 := rfl
  have hi := Memory.read_writeBytes_self (bytesOfWord w) h s.pc (by omega) (k := 0) (by omega)
  have lo := Memory.read_writeBytes_self (bytesOfWord w) h s.pc (by omega) (k := 1) (by omega)
  rw [BitVec.add_zero] at hi
  exact (congrArg₂ wordOfBytes hi lo).trans (wordOfBytes_of_word w)

/-- So a placed word is the word at pc: placing it writes its two bytes there, and the agenda and FAULT
are no part of the word. -/
theorem wordAtPc_withFetchWord {s : State} (h : s.mem.wf = true) (w : Word) :
    wordAtPc (s.withFetchWord 16 w.toNat) = w := by
  have word := wordAtPc_setMem_bytesOfWord h w
  rwa [← tableBytes_toNat] at word

end Sys2Proof.Claims

namespace Sys2Proof.Proofs

open Sys2Proof.Machine Sys2Proof.Claims

/-- Settles O1: the encoder's word carries the family in its top nibble and the operands in its fields. -/
theorem decodeOfEncodeIsIdentity : Obligations.DecodeOfEncodeIsIdentity :=
  fun _ h => decode_encode h

/-- Settles O2: the fields of a word, in the format of its family, make the word again. -/
theorem encodeOfDecodeIsIdentity : Obligations.EncodeOfDecodeIsIdentity :=
  fun _ _ h => encode_of_decode h

/-- Settles O3: the rows of one family are the cases of that family, and any two rows clash. -/
theorem decoderMatchesOpcodeMap : Obligations.DecoderMatchesOpcodeMap :=
  fun w => ⟨decode_eq_decodeByTable w, length_selected_le_one w opcodeTable_pairwise_clash⟩

/-- Settles O4: the words are of formats XYN and XNN, whose fields are `x`, `y` and the low digits; then
each low digit is a case of its own. -/
theorem familiesEightEAndFSelectByLowDigits : Obligations.FamiliesEightEAndFSelectByLowDigits := by
  intro x y k nn
  refine ⟨?_, ?_, ?_⟩
  · have word : BitVec.ofNat 16 (0x8000 + 256 * x.val + 16 * y.val + k.val) =
        wordXYN 0x8000 x y k := by
      rw [wordXYN, Nat.mod_eq_of_lt k.isLt]
    rw [word]
    fin_cases k <;> simp [decode, decodeFamily8]
  · change decode (wordXNN 0xE000 x nn) = _
    split <;> simp_all [decode, decodeFamilyE, ← BitVec.toNat_inj]
  · change decode (wordXNN 0xF000 x nn) = _
    split <;> simp_all [decode, decodeFamilyF, ← BitVec.toNat_inj]

/-- Settles O5: the decoder evaluates each word. -/
theorem writtenOutWordsDecode : Obligations.WrittenOutWordsDecode := by
  unfold Obligations.WrittenOutWordsDecode
  decide

/-- Settles O6: only a shift has two forms of line, and both are read back. -/
theorem assemblerLineStandsForItsInstruction : Obligations.AssemblerLineStandsForItsInstruction := by
  intro i
  cases i
  case shr | shl => exact assembleShift_shiftOperands _ _ _
  all_goals rfl

/-- Settles O7: either way the step is the event `Step`, on the state without that event in its agenda. -/
theorem stepRunsTheDecodedInstruction : Obligations.StepRunsTheDecodedInstruction := by
  intro s i hf hi
  refine ⟨fun agenda => ?_, fun rest agenda => ?_⟩
  · rw [step_of_agenda, agenda]
    exact stepEvent_eq_exec hf hi
  · rw [step_of_agenda, agenda]
    exact stepEvent_eq_exec (s := s.setAgenda rest) hf hi

/-- Settles O8: placing a word empties the agenda and clears FAULT, so the step is a `Step` that runs the
word at pc. -/
theorem placedWordIsTheOneTheNextStepRuns : Obligations.PlacedWordIsTheOneTheNextStepRuns := by
  intro s w i canonical hi
  have word := wordAtPc_withFetchWord canonical w
  refine ⟨word, ?_⟩
  exact stepEvent_eq_exec (s := s.withFetchWord 16 w.toNat) rfl (by rwa [word])

end Sys2Proof.Proofs
end

section
/-! Proofs of the family `40_flow.md`: jumps, calls and returns, the two faults of the call stack, and the
return that undoes a call. -/

namespace Sys2Proof.Machine

/-! ## Operands as numbers -/

@[simp] theorem zextAddr_toNat (nnn : Addr) : (zextAddr nnn).toNat = nnn.toNat :=
  BitVec.toNat_setWidth_of_le (by decide)

@[simp] theorem zextByte_toNat (b : Byte) : (zextByte b).toNat = b.toNat :=
  BitVec.toNat_setWidth_of_le (by decide)

/-- An address and a register value add up without a carry out of 16 bits (40_flow.md R83). -/
theorem zextAddr_add_zextByte_toNat (nnn : Addr) (b : Byte) :
    (zextAddr nnn + zextByte b).toNat = nnn.toNat + b.toNat := by
  rw [BitVec.toNat_add_of_lt, zextAddr_toNat, zextByte_toNat]
  rw [zextAddr_toNat, zextByte_toNat]
  omega

/-! ## Frames -/

/-- A part that is known to be the same need not be named among the changed ones. -/
theorem SameExcept.of_append_singleton {ps : List Part} {p : Part} {s t : State}
    (h : SameExcept (ps ++ [p]) s t) (hp : SamePart p s t) : SameExcept ps s t := by
  intro q hq
  by_cases e : q = p
  · exact e ▸ hp
  · exact h q (by simp [hq, e])

/-! ## Calls and returns

What `2nnn` and `00EE` do, by the number of stack entries in use. -/

/-- The state a call below the depth makes: its own address on the stack, pc at `nnn` (R81). -/
def State.called (s : State) (nnn : Addr) (room : s.sp.val < Config.stackDepth) : State :=
  (s.setStack (s.stack.set s.sp.val s.pc room) ⟨s.sp.val + 1, Nat.succ_lt_succ room⟩).setPc
    (zextAddr nnn)

/-- The state a return from depth `k + 1` makes: entry `k` popped, pc 2 after it (R82). -/
def State.returned (s : State) (k : Fin Config.stackDepth) : State :=
  (s.setStack s.stack k.castSucc).setPc (s.stack.get k + 2)

theorem exec_call_of_room (nnn : Addr) {s : State} (room : s.sp.val < Config.stackDepth) :
    exec (.call nnn) s = .next (s.called nnn room) := by
  simp only [exec, execCall]
  split
  · next t ht =>
    obtain ⟨-, rfl⟩ := State.push_eq_some ht
    rfl
  · next full =>
    rw [State.push_eq_none] at full
    omega

theorem exec_call_of_full (nnn : Addr) {s : State} (full : s.sp.val = Config.stackDepth) :
    exec (.call nnn) s = .next (s.raise .stackOverflow (encode (.call nnn))) := by
  simp only [exec, execCall, State.push_eq_none.mpr full]

theorem exec_ret_of_entry {s : State} {k : Fin Config.stackDepth} (hk : s.sp.val = k.val + 1) :
    exec .ret s = .next (s.returned k) := by
  simp only [exec, execRet]
  split
  · next w t ht =>
    obtain ⟨n, hn, sp, rfl, rfl⟩ := State.pop_eq_some ht
    obtain rfl : k = ⟨n, hn⟩ := Fin.ext (Nat.succ.inj (hk.symm.trans sp))
    rfl
  · next empty =>
    rw [State.pop_eq_none] at empty
    omega

theorem exec_ret_of_empty {s : State} (empty : s.sp.val = 0) :
    exec .ret s = .next (s.raise .stackUnderflow (encode .ret)) := by
  simp only [exec, execRet, State.pop_eq_none.mpr empty]

/-- A call writes the entry at the old SP and keeps every other one (R20). -/
theorem State.called_stack_get (s : State) (nnn : Addr) (room : s.sp.val < Config.stackDepth)
    (k : Fin Config.stackDepth) :
    (s.called nnn room).stack.get k = if k.val = s.sp.val then s.pc else s.stack.get k := by
  simp only [State.called, setPc_stack, setStack_stack, Vector.get_eq_getElem, Vector.getElem_set,
    eq_comm]

theorem State.called_sameExcept (s : State) (nnn : Addr) (room : s.sp.val < Config.stackDepth) :
    SameExcept [.stack, .pc] s (s.called nnn room) :=
  .of_append_singleton (p := .fault) (exec_sameExcept (exec_call_of_room nnn room)) rfl

/-- Where a return takes pc, as a number (R82). -/
theorem State.returned_pc_toNat (s : State) (k : Fin Config.stackDepth) :
    (s.returned k).pc.toNat = ((s.stack.get k).toNat + 2) % 65536 := by
  rw [State.returned, setPc_pc, BitVec.toNat_add]
  rfl

theorem State.returned_sameExcept {s : State} {k : Fin Config.stackDepth}
    (hk : s.sp.val = k.val + 1) : SameExcept [.stack, .pc] s (s.returned k) :=
  .of_append_singleton (p := .fault) (exec_sameExcept (exec_ret_of_entry hk)) rfl

end Sys2Proof.Machine

namespace Sys2Proof.Claims

/-- A well-formed instruction has the word of the encoder and no other (30_encoding.md R63). -/
theorem encodedAs_of_encode {i : Instr} {n : Nat} (wf : WellFormed i = true)
    (word : (encode i).toNat = n) : EncodedAs i n := by
  intro w
  rw [← word, BitVec.toNat_inj]
  constructor
  · intro h
    exact (encode_of_decode h).1.symm
  · rintro rfl
    exact decode_encode wf

end Sys2Proof.Claims

namespace Sys2Proof.Proofs

open Sys2Proof.Machine Sys2Proof.Claims

/-- Settles O15: pc is the only part a jump changes. -/
theorem jumpSetsPc : Obligations.JumpSetsPc := by
  intro nnn s
  have word : (encode (.jp nnn)).toNat = 0x1000 + nnn.toNat := wordNNN_toNat _ _ (by decide)
  exact ⟨encodedAs_of_encode rfl word, _, rfl, zextAddr_toNat nnn, exec_sameExcept (i := .jp nnn) rfl⟩

/-- Settles O17: a push finds room below the depth and none at it. -/
theorem callPushesItsOwnAddressOrOverflows : Obligations.CallPushesItsOwnAddressOrOverflows := by
  intro nnn s
  refine ⟨fun room => ?_, fun full => ?_⟩
  · exact ⟨_, exec_call_of_room nnn room, rfl, s.called_stack_get nnn room, zextAddr_toNat nnn,
      s.called_sameExcept nnn room⟩
  · exact ⟨_, _, exec_call_of_full nnn full, wordNNN_toNat _ _ (by decide), s.raise_fault _ _,
      s.raise_sameExcept _ _⟩

/-- Settles O18: a pop finds entry `k` at depth `k + 1` and none at depth 0. -/
theorem returnContinuesAfterTheCallOrUnderflows :
    Obligations.ReturnContinuesAfterTheCallOrUnderflows := by
  intro s
  refine ⟨fun k hk => ?_, fun empty => ?_⟩
  · exact ⟨_, exec_ret_of_entry hk, rfl, rfl, s.returned_pc_toNat k, State.returned_sameExcept hk⟩
  · exact ⟨_, exec_ret_of_empty empty, s.raise_fault _ _, s.raise_sameExcept _ _⟩

/-- Settles O19: the return finds entry `k`, which is the call's own address. -/
theorem returnUndoesTheCall : Obligations.ReturnUndoesTheCall := by
  intro nnn s t u w k hk hcall hsp hentry hret
  have room : s.sp.val < Config.stackDepth := hk ▸ k.isLt
  rw [exec_call_of_room nnn room] at hcall
  cases hcall
  have depth : u.sp.val = k.val + 1 := by
    rw [hsp, ← hk]
    rfl
  have entry : u.stack.get k = s.pc := by
    rw [hentry, State.called_stack_get, if_pos hk.symm]
  rw [exec_ret_of_entry depth] at hret
  cases hret
  refine ⟨Fin.ext hk.symm, ?_⟩
  rw [State.returned_pc_toNat, entry]

/-- Settles O16: pc is the only part the offset jump changes, and the sum fits in 16 bits. -/
theorem offsetJumpAddsV0 : Obligations.OffsetJumpAddsV0 := by
  intro nnn s
  exact ⟨_, rfl, zextAddr_add_zextByte_toNat nnn (s.reg regV0), exec_sameExcept (i := .jpV0 nnn) rfl⟩

end Sys2Proof.Proofs
end

section
/-! Proofs of the family `41_skip.md`: the four register skips, their encodings and where they take pc. -/

namespace Sys2Proof.Machine

/-- A skip changes pc and nothing else (R90). -/
theorem State.skip_sameExcept (s : State) (c : Bool) : SameExcept [.pc] s (s.skip c) := by
  rw [State.skip_eq]
  intro p hp
  cases p
  case pc => exact absurd (List.mem_singleton_self _) hp
  all_goals simp [SamePart]

end Sys2Proof.Machine

namespace Sys2Proof.Claims

open Sys2Proof.Machine

/-- A skip on a Boolean that decides `cond` is the claims' skip on `cond`: where the sum does not wrap,
the remainder modulo 65536 is the sum itself (R90). -/
theorem skipsOn_skip {s : State} {c : Bool} {cond : Prop} (hc : c = true ↔ cond) :
    SkipsOn cond s (s.skip c) := by
  obtain ⟨taken, notTaken⟩ := skipMove_skip (s := s) hc
  refine ⟨fun h room => ?_, fun h room => ?_, s.skip_sameExcept c⟩
  · rw [taken h, Nat.mod_eq_of_lt room]
  · rw [notTaken h, Nat.mod_eq_of_lt room]

end Sys2Proof.Claims

namespace Sys2Proof.Proofs

open Sys2Proof.Machine Sys2Proof.Claims

/-- Settles O20: the encodings are the words of formats XNN and XY0, and each skip's Boolean decides the
comparison of the two bytes as numbers. -/
theorem registerSkipsTestWholeRegisters : Obligations.RegisterSkipsTestWholeRegisters := by
  intro x y nn s
  have equal (a b : Byte) : decide (a = b) = true ↔ a.toNat = b.toNat := by
    rw [decide_eq_true_iff, BitVec.toNat_inj]
  have differ (a b : Byte) : decide (a ≠ b) = true ↔ a.toNat ≠ b.toNat := by
    rw [decide_eq_true_iff, ne_eq, ne_eq, BitVec.toNat_inj]
  refine ⟨?seImmWord, ?sneImmWord, ?seRegWord, ?sneRegWord, ?seImm, ?sneImm, ?seReg, ?sneReg⟩
  case seImmWord | sneImmWord => exact encodedAs_of_encode rfl (wordXNN_toNat _ x nn (by decide))
  case seRegWord | sneRegWord => exact encodedAs_of_encode rfl (wordXYN_toNat _ x y 0 (by decide))
  case seImm | seReg => exact ⟨_, rfl, skipsOn_skip (equal _ _)⟩
  case sneImm | sneReg => exact ⟨_, rfl, skipsOn_skip (differ _ _)⟩

end Sys2Proof.Proofs
end

section
/-! Proofs of the family `42_alu.md`: the register loads, the 8-bit ALU with its flags, and the random
byte. -/

namespace Sys2Proof

/-- The words of family 8 as numbers, the low digit put to the opcode (30_encoding.md R63, R67). -/
theorem wordXYN_8000_toNat (x y : Reg) {n : Nat} (hn : n < 16) :
    (wordXYN 0x8000 x y n).toNat = 0x8000 + n + 256 * x.val + 16 * y.val := by
  rw [wordXYN_toNat _ _ _ _ (by decide)]
  omega

end Sys2Proof

namespace Sys2Proof.Machine

/-! ## Flags as conditions on numbers -/

/-- Bit 0 is 1 exactly in the odd values (R109). -/
theorem lostRight_eq_true_iff (a : Byte) : lostRight a = true ↔ a.toNat % 2 = 1 := by
  rw [lostRight, BitVec.getLsbD, Nat.testBit_zero, decide_eq_true_iff]

/-- Bit 7 is 1 exactly in the values from 128 up (R111). -/
theorem lostLeft_eq_true_iff (a : Byte) : lostLeft a = true ↔ a.toNat ≥ 128 := by
  rw [lostLeft, ← BitVec.msb_eq_getLsbD_last (w := 8), BitVec.msb_eq_decide, decide_eq_true_iff]

/-! ## Frames -/

/-- The flag and result writes change registers and nothing else (R13). -/
theorem State.writeFlagResult_advance_sameExcept (s : State) (x : Reg) (f : Bool) (b : Byte) :
    SameExcept [.regs, .pc] s (s.writeFlagResult x f b).advance := by
  intro p hp
  cases p
  case regs | pc => simp at hp
  all_goals simp [SamePart, State.writeFlagResult, State.advance]

end Sys2Proof.Machine

namespace Sys2Proof.Claims

open Sys2Proof.Machine

/-- An advance from the same pc goes to the next instruction in sequence (42_alu.md R100). -/
theorem nextInSequence_advance {s u : State} (hu : u.pc = s.pc) : NextInSequence s u.advance := by
  intro room
  rw [(advance_move_and_parity hu).1, Nat.mod_eq_of_lt room]

/-- One register write and the advance are a plain register result. -/
theorem writesOnly_setReg (x : Reg) (b : Byte) (s : State) :
    WritesOnly x b s (s.setReg x b).advance := by
  refine ⟨?result, fun r hr => ?others, nextInSequence_advance rfl,
    exec_sameExcept (i := .ldImm x b) rfl⟩
  case result => exact (s.setReg_reg x x b).trans (if_pos rfl)
  case others => exact (s.setReg_reg x r b).trans (if_neg hr.symm)

/-- A flag write, a result write and the advance are a flag-writing ALU result, for a flag that decides
`cond`: the result is written last, so that it is VF where `x` names VF (R13; the spec's decision D2). -/
theorem writesResultAndFlag_writeFlagResult {x : Reg} {b : Byte} {result : Nat} {f : Bool}
    {cond : Prop} (s : State) (hresult : b.toNat = result) (hf : f = true ↔ cond) :
    WritesResultAndFlag x result cond s (s.writeFlagResult x f b).advance := by
  have reads (r : Reg) : (s.writeFlagResult x f b).advance.reg r =
      if x = r then b else if 15 = r then flagByte f else s.reg r := s.writeFlagResult_reg x r f b
  refine ⟨?result, fun hx => ⟨fun h => ?set, fun h => ?clear⟩, fun r hx hvf => ?others,
    nextInSequence_advance rfl, s.writeFlagResult_advance_sameExcept x f b⟩
  case result => rw [reads, if_pos rfl, hresult]
  case set => rw [reads, if_neg hx, if_pos rfl, hf.mpr h]; rfl
  case clear => rw [reads, if_neg hx, if_pos rfl, Bool.eq_false_iff.mpr (mt hf.mp h)]; rfl
  case others => rw [reads, if_neg hx.symm, if_neg hvf.symm]

end Sys2Proof.Claims

namespace Sys2Proof.Proofs

open Sys2Proof.Machine Sys2Proof.Claims

/-- Settles O22: each of the three is one register write, and an 8-bit sum is the sum modulo 256. -/
theorem loadsAndImmediateAddWriteOnlyVx : Obligations.LoadsAndImmediateAddWriteOnlyVx := by
  intro x y nn s
  have sum : s.reg x + nn = BitVec.ofNat 8 (((s.reg x).toNat + nn.toNat) % 256) := by
    apply BitVec.eq_of_toNat_eq
    rw [BitVec.toNat_add, BitVec.toNat_ofNat, Nat.mod_mod]
  refine ⟨?ldImmWord, ?addImmWord, ?ldRegWord, ?ldImm, ?addImm, ?ldReg⟩
  case ldImmWord | addImmWord => exact encodedAs_of_encode rfl (wordXNN_toNat _ x nn (by decide))
  case ldRegWord => exact encodedAs_of_encode rfl (wordXYN_8000_toNat x y (by decide))
  case ldImm | ldReg => exact ⟨_, rfl, writesOnly_setReg x _ s⟩
  case addImm => exact ⟨_, rfl, sum ▸ writesOnly_setReg x _ s⟩

/-- Settles O23: each of the three is one register write, of a bitwise operation. -/
theorem logicWorksBitByBit : Obligations.LogicWorksBitByBit := by
  intro x y s
  refine ⟨?orWord, ?andWord, ?xorWord, ?or, ?and, ?xor⟩
  case orWord | andWord | xorWord =>
    exact encodedAs_of_encode rfl (wordXYN_8000_toNat x y (by decide))
  case or => exact ⟨_, _, rfl, writesOnly_setReg x _ s, fun _ _ => BitVec.getLsbD_or⟩
  case and => exact ⟨_, _, rfl, writesOnly_setReg x _ s, fun _ _ => BitVec.getLsbD_and⟩
  case xor => exact ⟨_, _, rfl, writesOnly_setReg x _ s, fun _ _ => BitVec.getLsbD_xor⟩

/-- Settles O24: each of the five writes a flag and then a result, computed from the old operands. -/
theorem flagWritingAluResultAndFlag : Obligations.FlagWritingAluResultAndFlag := by
  intro x y s
  have difference (a b : Byte) : (a - b).toNat = (a.toNat + 256 - b.toNat) % 256 := by
    rw [BitVec.toNat_sub]
    omega
  have half (a : Byte) : (a >>> 1).toNat = a.toNat / 2 := by
    rw [BitVec.toNat_ushiftRight, Nat.shiftRight_one]
  have double (a : Byte) : (a <<< 1).toNat = 2 * a.toNat % 256 := by
    rw [BitVec.toNat_shiftLeft, Nat.shiftLeft_eq]
    omega
  refine ⟨?addReg, ?subReg, ?shr, ?subnReg, ?shl⟩
  case addReg =>
    exact ⟨_, rfl, writesResultAndFlag_writeFlagResult s (BitVec.toNat_add _ _) decide_eq_true_iff⟩
  case subReg | subnReg =>
    exact ⟨_, rfl, writesResultAndFlag_writeFlagResult s (difference _ _) decide_eq_true_iff⟩
  case shr =>
    exact ⟨_, rfl, writesResultAndFlag_writeFlagResult s (half _) (lostRight_eq_true_iff _)⟩
  case shl =>
    exact ⟨_, rfl, writesResultAndFlag_writeFlagResult s (double _) (lostLeft_eq_true_iff _)⟩

/-- Settles O25: the drawn byte AND `nn` is written as any register result is; a bit that `nn` lacks is
0 in the AND. -/
theorem randomByteIsMaskedAndDrawnAfresh : Obligations.RandomByteIsMaskedAndDrawnAfresh := by
  intro x nn s
  obtain ⟨drawn, others, next, -⟩ := writesOnly_setReg x (Config.randomByte s.draws &&& nn) s
  have masked (k : Nat) (hk : nn.getLsbD k = false) :
      (Config.randomByte s.draws &&& nn).getLsbD k = false := by
    rw [BitVec.getLsbD_and, hk, Bool.and_false]
  exact ⟨_, rfl, drawn, fun k hk => (congrArg (·.getLsbD k) drawn).trans (masked k hk), others, rfl,
    next, exec_sameExcept (i := .rnd x nn) rfl⟩

end Sys2Proof.Proofs
end

section
/-! Proofs of the family `43_index_memory.md`: the index register, the two stores and the block load. -/

namespace Sys2Proof.Machine

/-! ## The index register -/

/-- `I + Vx` as a number: it wraps at 16 bits (R122; the spec's decision D5). -/
theorem add_zextByte_toNat (w : Word) (b : Byte) :
    (w + zextByte b).toNat = (w.toNat + b.toNat) % 65536 := by
  rw [BitVec.toNat_add, zextByte_toNat]

/-- Five times all 8 bits of a register value fits in 16 bits (R123). -/
theorem zextByte_mul_five_toNat (b : Byte) : (zextByte b * 5).toNat = b.toNat * 5 := by
  have five : (5 : Word).toNat = 5 := rfl
  rw [BitVec.toNat_mul, zextByte_toNat, five]
  omega

/-! ## What memory reads as after an instruction -/

/-- The k-th digit is the remainder modulo ten of the byte without its last 2 - k digits (R124). -/
theorem bcdDigits_getElem_toNat (b : Byte) {k : Nat} (hk : k < (bcdDigits b).length) :
    (bcdDigits b)[k].toNat = b.toNat / 10 ^ (2 - k) % 10 := by
  match k, hk with
  | 0, _ | 1, _ | 2, _ =>
    simp only [bcdDigits, List.getElem_cons_zero, List.getElem_cons_succ, BitVec.toNat_ofNat]
    omega

/-- An instruction stores at most the sixteen registers (R125). -/
theorem storedBytes_length_le (i : Instr) (s : State) : (storedBytes i s).length ≤ 16 := by
  cases i
  case storeRegs x =>
    rw [storedBytes, State.regBlock_length]
    omega
  case ldB x => simp [storedBytes, bcdDigits]
  all_goals exact Nat.zero_le 16

variable {i : Instr} {s t : State} {x r : Reg}

/-- The k-th byte an instruction stores is read back at `A12(I + k)`: the block is too short to wrap onto
itself (R120). -/
theorem exec_mem_read_stored (hs : MemoryCanonical s) (h : exec i s = .next t) {k : Nat}
    (hk : k < (storedBytes i s).length) :
    t.mem.read (a12 (s.index + BitVec.ofNat 16 k)) = (storedBytes i s)[k] := by
  have short := storedBytes_length_le i s
  rw [exec_mem h]
  exact Memory.read_writeBytes_self _ hs _ (by omega) hk

/-- Every address an instruction stores nothing at reads as before (20_memory.md R42). -/
theorem exec_mem_read_other (h : exec i s = .next t) {a : Addr}
    (outside : ∀ k, k < (storedBytes i s).length → a ≠ a12 (s.index + BitVec.ofNat 16 k)) :
    t.mem.read a = s.mem.read a := by
  rw [exec_mem h]
  exact Memory.read_writeBytes_other _ _ _ _ fun k hk => (outside k hk).symm

/-- `Fx33` puts the k-th decimal digit of Vx at `A12(I + k)` (R124). -/
theorem exec_ldB_mem_read (hs : MemoryCanonical s) (h : exec (.ldB x) s = .next t) {k : Nat}
    (hk : k < 3) : (t.mem.read (a12 (s.index + BitVec.ofNat 16 k))).toNat =
      (s.reg x).toNat / 10 ^ (2 - k) % 10 :=
  (congrArg BitVec.toNat (exec_mem_read_stored hs h hk)).trans (bcdDigits_getElem_toNat _ hk)

/-- `Fx55` puts Vr at `A12(I + r)`, for each r up to x (R125). -/
theorem exec_storeRegs_mem_read (hs : MemoryCanonical s) (h : exec (.storeRegs x) s = .next t)
    (hr : r ≤ x) : t.mem.read (a12 (s.index + BitVec.ofNat 16 r.val)) = s.reg r := by
  have inside : r.val < (s.regBlock x).length := by
    rw [State.regBlock_length]
    exact Nat.lt_succ_of_le hr
  exact (exec_mem_read_stored hs h inside).trans (s.regBlock_getElem x r inside)

/-- `Fx65` loads V0 to Vx and leaves the registers above alone (R126). -/
theorem exec_loadRegs_reg (h : exec (.loadRegs x) s = .next t) (r : Reg) :
    t.reg r = if r ≤ x then s.mem.read (a12 (s.index + BitVec.ofNat 16 r.val)) else s.reg r := by
  cases h
  have loaded := loadBlock_get s.mem s.index (x.val + 1) s.v r
  simp only [Nat.lt_succ_iff] at loaded
  exact loaded

end Sys2Proof.Machine

namespace Sys2Proof.Proofs

open Sys2Proof.Machine Sys2Proof.Claims

/-- Settles O29: the three digits are stored at `A12(I)` upward, and a byte has none above the hundreds. -/
theorem bcdStoresThreeDigitsAtI : Obligations.BcdStoresThreeDigitsAtI := by
  intro x s hs
  have digit {k : Nat} (hk : k < 3) := exec_ldB_mem_read (x := x) (s := s) hs rfl hk
  have first : s.index + BitVec.ofNat 16 0 = s.index := BitVec.add_zero _
  refine ⟨encodedAs_of_encode rfl (wordXKK_toNat _ x (by decide)), _, rfl, ?hundreds,
    digit (k := 1) (by decide), ?ones, fun a h0 h1 h2 => ?others, nextInSequence_advance rfl,
    exec_sameExcept (i := .ldB x) rfl⟩
  case hundreds =>
    have read := digit (k := 0) (by decide)
    rw [first] at read
    omega
  case ones =>
    have read := digit (k := 2) (by decide)
    rwa [Nat.sub_self, Nat.pow_zero, Nat.div_one] at read
  case others =>
    refine exec_mem_read_other (i := .ldB x) rfl fun k hk => ?_
    match k, hk with
    | 0, _ => rwa [first]
    | 1, _ => exact h1
    | 2, _ => exact h2

/-- Settles O30: the block of V0 to Vx has a byte for each r from 0 to x and no more. -/
theorem blockStoreWritesV0ToVxAtI : Obligations.BlockStoreWritesV0ToVxAtI := by
  intro x s hs
  refine ⟨encodedAs_of_encode rfl (wordXKK_toNat _ x (by decide)), _, rfl,
    fun r hr => exec_storeRegs_mem_read hs rfl hr, fun a outside => ?others,
    nextInSequence_advance rfl, exec_sameExcept (i := .storeRegs x) rfl⟩
  case others =>
    refine exec_mem_read_other (i := .storeRegs x) rfl fun k hk => ?_
    have upToX : k < x.val + 1 := s.regBlock_length x ▸ hk
    exact outside ⟨k, by omega⟩ (Nat.le_of_lt_succ upToX)

/-- Settles O31: a register up to Vx is loaded, one above it is not. -/
theorem blockLoadReadsV0ToVxAtI : Obligations.BlockLoadReadsV0ToVxAtI := by
  intro x s
  have loads := exec_loadRegs_reg (x := x) (s := s) rfl
  exact ⟨encodedAs_of_encode rfl (wordXKK_toNat _ x (by decide)), _, rfl,
    fun r hr => (loads r).trans (if_pos hr), fun r hr => (loads r).trans (if_neg (Fin.not_le.mpr hr)),
    nextInSequence_advance rfl, exec_sameExcept (i := .loadRegs x) rfl⟩

/-- Settles O32: the load reads the x + 1 addresses the store wrote. -/
theorem storeThenLoadRecoversRegisters : Obligations.StoreThenLoadRecoversRegisters := by
  intro x s t u w hs hstore index bytes hload r hr
  calc w.reg r
    _ = u.mem.read (a12 (s.index + BitVec.ofNat 16 r.val)) := by
      rw [exec_loadRegs_reg hload, if_pos hr, index]
    _ = t.mem.read (a12 (s.index + BitVec.ofNat 16 r.val)) := bytes r hr
    _ = s.reg r := exec_storeRegs_mem_read hs hstore hr

/-- Settles O27: `Annn` and `Fx29` write I, and neither value leaves 16 bits. -/
theorem indexLoadsSetI : Obligations.IndexLoadsSetI := by
  intro nnn x s
  refine ⟨?ldIWord, ?ldFWord, ?ldI, ?ldF⟩
  case ldIWord => exact encodedAs_of_encode rfl (wordNNN_toNat _ nnn (by decide))
  case ldFWord => exact encodedAs_of_encode rfl (wordXKK_toNat _ x (by decide))
  case ldI =>
    exact ⟨_, rfl, zextAddr_toNat nnn, nextInSequence_advance rfl, exec_sameExcept (i := .ldI nnn) rfl⟩
  case ldF =>
    exact ⟨_, rfl, zextByte_mul_five_toNat _, nextInSequence_advance rfl,
      exec_sameExcept (i := .ldF x) rfl⟩

/-- Settles O28: I is the only part written, with the sum of 16 bits. -/
theorem addToIndexWrapsAtSixteenBits : Obligations.AddToIndexWrapsAtSixteenBits := by
  intro x s
  exact ⟨_, rfl, add_zextByte_toNat _ _, nextInSequence_advance rfl,
    exec_sameExcept (i := .addI x) rfl⟩

end Sys2Proof.Proofs
end

section
/-! Proofs of the family `44_display.md`: clearing the screen and drawing sprites. -/

namespace Sys2Proof.Machine

/-! ## The sprite's cells -/

/-- On the row that sprite row `r` falls on, the sprite covers the cells under the 1 bits of that row
alone: the sprite's rows do not meet (R132, R133). -/
theorem spriteCovers_row_iff {s : State} {x0 y0 : Byte} {n r : Nat} (hn : n ≤ 32) (hr : r < n)
    {row : Fin 32} (hrow : row.val = (y0.toNat + r) % 32) (col : Fin 64) :
    SpriteCovers s x0 y0 n row col ↔ ∃ c, c < 8 ∧ col.val = (x0.toNat + c) % 64 ∧
      (s.mem.read (a12 (s.index + BitVec.ofNat 16 r))).getLsbD (7 - c) = true := by
  constructor
  · rintro ⟨r', c, hr', hc, hrow', hcol, hbit⟩
    obtain rfl : r' = r := by omega
    exact ⟨c, hc, hcol, hbit⟩
  · rintro ⟨c, hc, hcol, hbit⟩
    exact ⟨r, c, hr, hc, hrow, hcol, hbit⟩

/-- The sprite's cells depend on I and the sprite's own bytes only (R132). -/
theorem spriteCovers_congr {s u : State} {n : Nat} (index : u.index = s.index)
    (bytes : ∀ r, r < n → u.mem.read (a12 (s.index + BitVec.ofNat 16 r)) =
      s.mem.read (a12 (s.index + BitVec.ofNat 16 r)))
    (x0 y0 : Byte) (row : Fin 32) (col : Fin 64) :
    SpriteCovers u x0 y0 n row col ↔ SpriteCovers s x0 y0 n row col := by
  rw [SpriteCovers, SpriteCovers, index]
  refine exists₂_congr fun r c => and_congr_right fun hr => ?_
  rw [bytes r hr]

/-- A sprite row has a 1 bit exactly if its byte is not 0 (R132). -/
theorem exists_spriteBit_iff_ne_zero (b : Byte) : (∃ c, c < 8 ∧ b.getLsbD (7 - c) = true) ↔ b ≠ 0 := by
  constructor
  · rintro ⟨c, -, hbit⟩ rfl
    simp at hbit
  · intro nonzero
    by_contra! clear
    refine nonzero (BitVec.eq_of_getLsbD_eq fun i hi => ?_)
    have off := clear (7 - i) (by omega)
    rw [Nat.sub_sub_self (by omega)] at off
    simpa using off

/-- A sprite covers some cell exactly if it is not all zero. -/
theorem exists_spriteCovers_iff (s : State) (x0 y0 : Byte) (n : Nat) :
    (∃ row col, SpriteCovers s x0 y0 n row col) ↔
      ∃ r, r < n ∧ s.mem.read (a12 (s.index + BitVec.ofNat 16 r)) ≠ 0 := by
  constructor
  · rintro ⟨row, col, r, c, hr, hc, -, -, hbit⟩
    exact ⟨r, hr, (exists_spriteBit_iff_ne_zero _).mp ⟨c, hc, hbit⟩⟩
  · rintro ⟨r, hr, nonzero⟩
    obtain ⟨c, hc, hbit⟩ := (exists_spriteBit_iff_ne_zero _).mpr nonzero
    exact ⟨spriteRow y0 r, spriteCol x0 c, r, c, hr, hc, rfl, rfl, hbit⟩

/-! ## What a draw leaves -/

/-- The rows of a well-formed draw fit in the framebuffer, as `plotSprite_spec` asks. -/
theorem rows_le_of_wellFormed_drw {x y : Reg} {n : Nat} (wf : WellFormed (.drw x y n) = true) :
    n ≤ 32 := by
  have short : n < 16 := of_decide_eq_true wf
  omega

theorem flagByte_eq_one_iff (f : Bool) : flagByte f = 1 ↔ f = true := by
  cases f <;> decide

theorem flagByte_eq_zero_iff (f : Bool) : flagByte f = 0 ↔ f = false := by
  cases f <;> decide

variable {x y : Reg} {n : Nat} {s t : State}

/-- What a register holds after a draw: VF is the collision, every other is as before (R133). -/
theorem exec_drw_reg (h : exec (.drw x y n) s = .next t) (r : Reg) :
    t.reg r = if 15 = r then flagByte (plotSprite s (s.reg x) (s.reg y) n ⟨s.fb, false⟩).hit
      else s.reg r := by
  cases h
  exact State.setReg_reg _ regVF r _

/-- A draw toggles exactly the cells the sprite covers (R133). -/
theorem exec_drw_pixel_ne_iff (hn : n ≤ 32) (h : exec (.drw x y n) s = .next t) (row : Fin 32)
    (col : Fin 64) :
    t.pixel row col ≠ s.pixel row col ↔ SpriteCovers s (s.reg x) (s.reg y) n row col := by
  cases h
  have drawn := (plotSprite_spec s (s.reg x) (s.reg y) n hn ⟨s.fb, false⟩).1 row col
  rw [rowsCover_iff] at drawn
  change (plotSprite s (s.reg x) (s.reg y) n ⟨s.fb, false⟩).fb.cell row col ≠ s.fb.cell row col ↔ _
  cases hs : s.fb.cell row col <;> simp [drawn, hs]

theorem exec_drw_pixel_of_covers (hn : n ≤ 32) (h : exec (.drw x y n) s = .next t) {row : Fin 32}
    {col : Fin 64} (on : SpriteCovers s (s.reg x) (s.reg y) n row col) :
    t.pixel row col = !s.pixel row col :=
  Bool.eq_not_of_ne ((exec_drw_pixel_ne_iff hn h row col).mpr on)

theorem exec_drw_pixel_of_not_covers (hn : n ≤ 32) (h : exec (.drw x y n) s = .next t)
    {row : Fin 32} {col : Fin 64} (off : ¬ SpriteCovers s (s.reg x) (s.reg y) n row col) :
    t.pixel row col = s.pixel row col :=
  not_not.mp (mt (exec_drw_pixel_ne_iff hn h row col).mp off)

/-- After a draw VF is 1 exactly if a cell the sprite covers was on (R133). -/
theorem exec_drw_vf_eq_one_iff (hn : n ≤ 32) (h : exec (.drw x y n) s = .next t) :
    t.reg 15 = 1 ↔
      ∃ row col, SpriteCovers s (s.reg x) (s.reg y) n row col ∧ s.pixel row col = true := by
  have collided := (plotSprite_spec s (s.reg x) (s.reg y) n hn ⟨s.fb, false⟩).2
  simp only [rowsCover_iff, Bool.false_eq_true, false_or] at collided
  rw [exec_drw_reg h, if_pos rfl, flagByte_eq_one_iff]
  exact collided

/-- Otherwise it is 0: VF is a whole flag byte (R14). -/
theorem exec_drw_vf_eq_zero_iff (h : exec (.drw x y n) s = .next t) :
    t.reg 15 = 0 ↔ ¬ t.reg 15 = 1 := by
  rw [exec_drw_reg h, if_pos rfl, flagByte_eq_one_iff, flagByte_eq_zero_iff, Bool.not_eq_true]

end Sys2Proof.Machine

namespace Sys2Proof.Proofs

open Sys2Proof.Machine Sys2Proof.Claims

/-- Settles O36: the framebuffer becomes the blank one. -/
theorem clearScreenTurnsEveryCellOff : Obligations.ClearScreenTurnsEveryCellOff := by
  intro s
  exact ⟨encodedAs_of_encode rfl rfl, _, rfl, cell_blankFramebuffer, nextInSequence_advance rfl,
    exec_sameExcept (i := .cls) rfl⟩

/-- Settles O37: the draw loop toggles what the sprite covers, and VF is the loop's collision. -/
theorem drawTogglesCoveredCellsAndReportsCollision :
    Obligations.DrawTogglesCoveredCellsAndReportsCollision := by
  intro x y n s wf
  obtain ⟨t, h⟩ : ∃ t, exec (.drw x y n) s = .next t := ⟨_, rfl⟩
  have hn := rows_le_of_wellFormed_drw wf
  have collided := exec_drw_vf_eq_one_iff hn h
  refine ⟨t, h, fun row col => ⟨exec_drw_pixel_of_covers hn h, exec_drw_pixel_of_not_covers hn h⟩,
    collided.mpr, fun none => ?clear, fun r hr => ?others, ?next, exec_sameExcept h⟩
  case clear => exact (exec_drw_vf_eq_zero_iff h).mpr (mt collided.mp none)
  case others => rw [exec_drw_reg h, if_neg hr.symm]
  case next =>
    cases h
    exact nextInSequence_advance rfl

/-- Settles O38: both draws toggle the same cells, and toggling twice changes nothing. -/
theorem drawingTwiceRestoresTheFramebuffer : Obligations.DrawingTwiceRestoresTheFramebuffer := by
  intro x y n s t u w wf first pixels vx vy index bytes second
  have hn := rows_le_of_wellFormed_drw wf
  have toggled := exec_drw_pixel_ne_iff hn first
  have toggledBack := exec_drw_pixel_ne_iff hn second
  have collided := exec_drw_vf_eq_one_iff hn second
  simp only [vx, vy, spriteCovers_congr index bytes, pixels] at toggledBack collided
  refine ⟨fun row col => ?restored, collided, fun clear => ?fromClear⟩
  case restored =>
    have same : w.pixel row col ≠ t.pixel row col ↔ t.pixel row col ≠ s.pixel row col :=
      (toggledBack row col).trans (toggled row col).symm
    revert same
    cases w.pixel row col <;> cases t.pixel row col <;> cases s.pixel row col <;> decide
  case fromClear =>
    rw [collided, ← exists_spriteCovers_iff s (s.reg x) (s.reg y)]
    refine exists₂_congr fun row col => and_iff_left_of_imp fun covered => ?_
    rw [exec_drw_pixel_of_covers hn first covered, clear row col covered, Bool.not_false]

/-- Settles O39: a cell is toggled exactly under the 1 bits of the one sprite row that falls on its row;
the eight columns of 0xFF from column 60, and the four rows from row 30, are counted out. -/
theorem drawWrapsOnBothAxes : Obligations.DrawWrapsOnBothAxes := by
  intro x y n s t wf h
  have hn := rows_le_of_wellFormed_drw wf
  have toggled := exec_drw_pixel_ne_iff hn h
  refine ⟨fun hx r hr full row hrow => ⟨fun col => ?columns, fun one row' col other => ?otherRows⟩,
    fun hy four => ⟨fun row col outside => ?outside, fun r hr row col hrow => ?rows⟩⟩
  case columns =>
    have bit : ∀ c, c < 8 → (0xFF : Byte).getLsbD (7 - c) = true := by decide
    rw [toggled, spriteCovers_row_iff hn hr hrow, full, hx]
    constructor
    · rintro ⟨c, hc, hcol, -⟩
      omega
    · intro inside
      refine ⟨(col.val + 4) % 64, ?_, ?_, bit _ ?_⟩ <;> omega
  case otherRows =>
    refine exec_drw_pixel_of_not_covers hn h fun ⟨r', c, hr', hc, hrow', _⟩ => other (Fin.ext ?_)
    obtain rfl : r' = r := by omega
    exact hrow'.trans hrow.symm
  case outside =>
    refine exec_drw_pixel_of_not_covers hn h fun ⟨r, c, hr, hc, hrow, _⟩ => outside ?_
    simp only [List.mem_cons, List.not_mem_nil, or_false]
    omega
  case rows =>
    rw [toggled, spriteCovers_row_iff hn (four ▸ hr) (hy ▸ hrow)]

end Sys2Proof.Proofs
end

section
/-! Proofs of the family `45_keys_timers.md`: the key skips, the wait for a key, and the two timers'
instructions. -/

namespace Sys2Proof.Machine

/-! ## Keys -/

/-- A pressed key below which none is pressed is the one the key encoder answers (R142). -/
theorem leastKey_of_least {keys : Keys} {k : Fin 16} (down : keys.get k = true)
    (below : ∀ j, j < k → keys.get j = false) : leastKey keys = some k := by
  cases h : leastKey keys with
  | none => exact absurd down (Bool.eq_false_iff.mp ((leastKey_eq_none keys).mp h k))
  | some i =>
    obtain ⟨iDown, iBelow⟩ := leastKey_eq_some h
    have notBelow : ¬ i < k := fun lt => Bool.eq_false_iff.mp (below i lt) iDown
    have notAbove : ¬ k < i := fun lt => Bool.eq_false_iff.mp (iBelow k lt) down
    rw [le_antisymm (not_lt.mp notAbove) (not_lt.mp notBelow)]

/-- A key number fits in a byte. -/
theorem keyByte_toNat (k : Fin 16) : (keyByte k).toNat = k.val := by
  rw [keyByte, BitVec.toNat_ofNat]
  omega

/-! ## The wait for a key -/

theorem exec_ldVxK_of_none (x : Reg) {s : State} (up : leastKey s.keys = none) :
    exec (.ldVxK x) s = .next (s.setAwaitKey true) := by
  simp only [exec, execLdVxK, up]

theorem exec_ldVxK_of_some (x : Reg) {s : State} {k : Fin 16} (least : leastKey s.keys = some k) :
    exec (.ldVxK x) s = .next ((s.setReg x (keyByte k)).setAwaitKey false).advance := by
  simp only [exec, execLdVxK, least]

/-- Waiting sets AWAIT_KEY and nothing else. -/
theorem State.setAwaitKey_sameExcept (s : State) (b : Bool) :
    SameExcept [.awaitKey] s (s.setAwaitKey b) := by
  intro p hp
  cases p
  case awaitKey => exact absurd (List.mem_singleton_self _) hp
  all_goals simp [SamePart]

/-! ## The sound output -/

/-- The level output is on exactly while ST is not 0 (10_state.md R23). -/
theorem State.soundActive_eq_true_iff (s : State) : s.soundActive = true ↔ s.st ≠ 0 := by
  rw [State.soundActive, decide_eq_true_iff, ne_eq, ne_eq, ← BitVec.toNat_inj]
  rfl

end Sys2Proof.Machine

namespace Sys2Proof.Proofs

open Sys2Proof.Machine Sys2Proof.Claims

/-- Settles O42: the key encoder answers none where no key is pressed, and else the least pressed one. -/
theorem waitForKeyHoldsPcUntilAKeyIsPressed : Obligations.WaitForKeyHoldsPcUntilAKeyIsPressed := by
  intro x s
  refine ⟨fun up => ?waits, fun k down below => ?takes⟩
  case waits =>
    have waiting := exec_ldVxK_of_none x ((leastKey_eq_none s.keys).mpr up)
    exact ⟨_, waiting, rfl, s.setAwaitKey_sameExcept true⟩
  case takes =>
    have taking := exec_ldVxK_of_some x (leastKey_of_least down below)
    obtain ⟨written, others, -⟩ := writesOnly_setReg x (keyByte k) s
    exact ⟨_, taking, (congrArg BitVec.toNat written).trans (keyByte_toNat k), others, rfl,
      nextInSequence_advance rfl, exec_sameExcept taking⟩

/-- Settles O43: the read is a plain register result with value DT, and the other writes DT alone. -/
theorem delayTimerIsReadAndSet : Obligations.DelayTimerIsReadAndSet := by
  intro x s
  refine ⟨?readWord, ?setWord, ?read, ?set⟩
  case readWord | setWord => exact encodedAs_of_encode rfl (wordXKK_toNat _ x (by decide))
  case read => exact ⟨_, rfl, writesOnly_setReg x s.dt s⟩
  case set => exact ⟨_, rfl, rfl, nextInSequence_advance rfl, exec_sameExcept (i := .ldDtVx x) rfl⟩

/-- Settles O21: `KeySel` of Vx is the level of key `k`, and `ExA1` skips on its complement. -/
theorem keySkipsTestTheNamedKey : Obligations.KeySkipsTestTheNamedKey := by
  intro x k s hk
  have level : keySel s.keys (s.reg x) = s.keys.get k := keySel_eq_get hk s.keys
  refine ⟨⟨_, rfl, skipsOn_skip ?_⟩, ⟨_, rfl, skipsOn_skip ?_⟩⟩
  · rw [level]
  · rw [level, Bool.not_eq_true']

/-- Settles O44: ST is the only part written besides pc, so the pulse output is framed; the level output
reads the new ST. -/
theorem soundTimerIsSetWithoutAPulse : Obligations.SoundTimerIsSetWithoutAPulse := by
  intro x s
  exact ⟨_, rfl, rfl, State.soundActive_eq_true_iff _, rfl, nextInSequence_advance rfl,
    exec_sameExcept (i := .ldStVx x) rfl⟩

end Sys2Proof.Proofs
end

section
/-! Proofs of the family `60_exceptions.md`: what a `Step` can do, the latched fault and the halt, the two
timers' count, the input vector, installing, and the end of a program. -/

namespace Sys2Proof.Machine

/-! ## Frames -/

theorem SamePart.trans {p : Part} {s t u : State} (h : SamePart p s t) (h' : SamePart p t u) :
    SamePart p s u := by
  cases p
  case regs => exact fun r => (h' r).trans (h r)
  case framebuffer => exact fun row col => (h' row col).trans (h row col)
  case memory => exact fun a => (h' a).trans (h a)
  case stack => exact ⟨h'.1.trans h.1, h'.2.trans h.2⟩
  all_goals exact Eq.trans h' h

theorem SameExcept.refl (ps : List Part) (s : State) : SameExcept ps s s := by
  intro p _
  cases p <;> simp [SamePart]

theorem SameExcept.trans {ps : List Part} {s t u : State} (h : SameExcept ps s t)
    (h' : SameExcept ps t u) : SameExcept ps s u :=
  fun p hp => (h p hp).trans (h' p hp)

theorem SameExcept.mono {ps qs : List Part} {s t : State} (h : SameExcept ps s t) (sub : ps ⊆ qs) :
    SameExcept qs s t :=
  fun p hp => h p fun mem => hp (sub mem)

theorem State.setAgenda_sameExcept (s : State) (es : List Event) :
    SameExcept [.agenda] s (s.setAgenda es) := by
  intro p hp
  cases p <;> simp_all [SamePart]

theorem State.tick_sameExcept (s : State) : SameExcept [.dt, .st, .soundOffEdge] s s.tick := by
  intro p hp
  cases p <;> simp_all [SamePart, State.tick]

theorem State.pressKeys_sameExcept (s : State) (keys : Keys) :
    SameExcept [.keys, .soundOffEdge] s (s.pressKeys keys) := by
  intro p hp
  cases p <;> simp_all [SamePart, State.pressKeys, State.quiet]

/-- What the Executor changes before it looks at the instruction: the pulse output falls and the mark of a
first `Step` is set. -/
theorem State.quiet_setStarted_sameExcept (s : State) :
    SameExcept [.soundOffEdge, .started] s (s.quiet.setStarted true) := by
  intro p hp
  cases p <;> simp_all [SamePart, State.quiet]

/-! ## The step and the run -/

/-- A step takes the first event off the agenda and performs it; with none there, a `Step`. -/
theorem step_eq_runEvent (s : State) :
    step s = runEvent (s.agenda.headD .step) (s.setAgenda s.agenda.tail) := by
  obtain ⟨_, _, _, _, _, _, _, _, _, _, _, _, _, _, _, agenda⟩ := s
  cases agenda <;> rfl

theorem step_of_agenda_nil {s : State} (h : s.agenda = []) : step s = stepEvent s := by
  rw [step_of_agenda, h]

theorem step_of_agenda_cons {s : State} {e : Event} {rest : List Event} (h : s.agenda = e :: rest) :
    step s = runEvent e (s.setAgenda rest) := by
  rw [step_of_agenda, h]

theorem run_succ_of_step {s u : State} (h : step s = .next u) (k : Nat) :
    Host.Core.run Sys2Proof.core (k + 1) s = Host.Core.run Sys2Proof.core k u := by
  have first : Sys2Proof.core.step s = .next u := h
  simp only [Host.Core.run, first]

theorem run_succ_eq_next {s t : State} {k : Nat}
    (h : Host.Core.run Sys2Proof.core (k + 1) s = .next t) :
    ∃ u, step s = .next u ∧ Host.Core.run Sys2Proof.core k u = .next t := by
  simp only [Host.Core.run] at h
  split at h
  · next u first => exact ⟨u, first, h⟩
  · cases h
  · cases h

/-! ## A `Step`, by its three cases -/

/-- A halted machine does nothing (R155). -/
theorem stepEvent_of_fault {s : State} (hf : s.fault.kind ≠ .noFault) :
    stepEvent s = .next (s.quiet.setStarted true) :=
  if_pos (decide_eq_true hf)

/-- A word that is no instruction takes DecodeFailure (R154). -/
theorem stepEvent_of_illegal {s : State} (hf : s.faultFree) (hi : decode s.fetch = none) :
    stepEvent s = .next ((s.quiet.setStarted true).raise .decodeFailure s.fetch) := by
  have running : ¬ s.halted = true := fun halted => of_decide_eq_true halted hf
  rw [stepEvent, if_neg running]
  exact fetchDecodeExecute_of_illegal (s := s.quiet.setStarted true) hi

/-- DecodeFailure changes FAULT and what every `Step` changes (R153). -/
theorem State.decodeFailure_sameExcept (s : State) (w : Word) :
    SameExcept [.fault, .soundOffEdge, .started] s
      ((s.quiet.setStarted true).raise .decodeFailure w) :=
  (s.quiet_setStarted_sameExcept.mono (by decide)).trans
    ((State.raise_sameExcept _ _ _).mono (by decide))

/-! ## Which faults an instruction raises -/

/-- An instruction leaves FAULT alone, or it is a return with an empty stack or a call with a full one and
takes its fault (R151, R152). -/
theorem exec_fault_cases {i : Instr} {s t : State} (h : exec i s = .next t) :
    t.fault = s.fault ∨
      (i = .ret ∧ s.sp.val = 0 ∧ t = s.raise .stackUnderflow (encode .ret)) ∨
      ∃ nnn, i = .call nnn ∧ s.sp.val = Config.stackDepth ∧
        t = s.raise .stackOverflow (encode (.call nnn)) := by
  cases i
  case ret =>
    simp only [exec, execRet] at h
    split at h <;> cases h
    · next w u popped =>
      obtain ⟨_, _, -, -, rfl⟩ := State.pop_eq_some popped
      exact .inl rfl
    · next empty => exact .inr (.inl ⟨rfl, State.pop_eq_none.mp empty, rfl⟩)
  case call nnn =>
    simp only [exec, execCall] at h
    split at h <;> cases h
    · next u pushed =>
      obtain ⟨_, rfl⟩ := State.push_eq_some pushed
      exact .inl rfl
    · next full => exact .inr (.inr ⟨nnn, rfl, State.push_eq_none.mp full, rfl⟩)
  all_goals exact .inl (exec_sameExcept h .fault (by simp [changes]))

/-! ## FAULT says what stopped the machine -/

/-- A machine that a fault has halted has made a `Step`. -/
theorem started_of_fault {s : State} (h : FaultLatchTruthful s) (hf : s.fault.kind ≠ .noFault) :
    s.started = true := by
  unfold FaultLatchTruthful at h
  split at h
  · next clear => exact absurd clear hf
  all_goals exact h.1

/-- With nothing latched, being truthful is a matter of FAULT alone. -/
theorem faultLatchTruthful_of_faultFree {s t : State} (hf : s.faultFree) (h : FaultLatchTruthful s)
    (same : t.fault = s.fault) : FaultLatchTruthful t := by
  rw [State.faultFree] at hf
  simpa only [FaultLatchTruthful, same, hf] using h

/-- Whether FAULT is truthful does not depend on registers, `I`, the timers, the framebuffer, the keys,
the outputs, the draws or the agenda. -/
theorem faultLatchTruthful_congr {s t : State} (h : FaultLatchTruthful s)
    (frame : SameExcept [.regs, .index, .dt, .st, .framebuffer, .keys, .awaitKey, .soundOffEdge,
      .draws, .agenda] s t) : FaultLatchTruthful t := by
  have fault : t.fault = s.fault := frame .fault (by decide)
  have started : t.started = s.started := frame .started (by decide)
  have pc : t.pc = s.pc := frame .pc (by decide)
  have fetch : t.fetch = s.fetch := fetch_congr (frame .memory (by decide)) pc
  obtain ⟨-, sp⟩ := frame .stack (by decide)
  simpa only [FaultLatchTruthful, fault, started, pc, fetch, sp] using h

/-! ## Every instruction answers -/

theorem exec_eq_next (i : Instr) (s : State) : ∃ t, exec i s = .next t := by
  cases i
  case ret =>
    rw [exec, execRet]
    split <;> exact ⟨_, rfl⟩
  case call nnn =>
    rw [exec, execCall]
    split <;> exact ⟨_, rfl⟩
  case ldVxK x =>
    rw [exec, execLdVxK]
    split <;> exact ⟨_, rfl⟩
  all_goals exact ⟨_, rfl⟩

/-! ## Who writes the timers and the keys -/

theorem dt_not_mem_changes {i : Instr} (hi : ∀ x, i ≠ .ldDtVx x) : .dt ∉ changes i := by
  cases i <;> simp_all [changes]

theorem st_not_mem_changes {i : Instr} (hi : ∀ x, i ≠ .ldStVx x) : .st ∉ changes i := by
  cases i <;> simp_all [changes]

theorem keys_not_mem_changes (i : Instr) : .keys ∉ changes i := by
  cases i <;> simp [changes]

/-! ## Timers and keys beside an instruction -/

/-- The state `s` with its timers, its keys and its pulse output taken from `u`. -/
def State.withInputsOf (s u : State) : State :=
  { s with dt := u.dt, st := u.st, keys := u.keys, soundOffEdge := u.soundOffEdge }

/-- Does the instruction read or write a timer or read a key (R140 to R145)? -/
def usesInputs : Instr → Bool
  | .skp _ | .sknp _ | .ldVxK _ | .ldVxDt _ | .ldDtVx _ | .ldStVx _ => true
  | _ => false

/-- Drawing reads memory and `I` only. -/
theorem plotSprite_withInputsOf (s u : State) (x0 y0 : Byte) (n : Nat) (c : Canvas) :
    plotSprite (s.withInputsOf u) x0 y0 n c = plotSprite s x0 y0 n c := by
  induction n with
  | zero => rfl
  | succ n ih =>
    rw [plotSprite, plotSprite, ih]
    rfl

/-- An instruction that uses neither timers nor keys does the same whatever they are. -/
theorem exec_withInputsOf {i : Instr} (hi : usesInputs i = false) {s t : State}
    (h : exec i s = .next t) (u : State) :
    exec i (s.withInputsOf u) = .next (t.withInputsOf u) := by
  cases i
  case skp | sknp | ldVxK | ldVxDt | ldDtVx | ldStVx => cases hi
  case ret =>
    by_cases empty : s.sp.val = 0
    · rw [exec_ret_of_empty empty] at h
      cases h
      exact exec_ret_of_empty (s := s.withInputsOf u) empty
    · obtain ⟨k, entry⟩ : ∃ k : Fin Config.stackDepth, s.sp.val = k.val + 1 :=
        ⟨⟨s.sp.val - 1, by omega⟩, by simp only; omega⟩
      rw [exec_ret_of_entry entry] at h
      cases h
      exact exec_ret_of_entry (s := s.withInputsOf u) entry
  case call nnn =>
    by_cases room : s.sp.val < Config.stackDepth
    · rw [exec_call_of_room nnn room] at h
      cases h
      exact exec_call_of_room nnn (s := s.withInputsOf u) room
    · have full : s.sp.val = Config.stackDepth := by omega
      rw [exec_call_of_full nnn full] at h
      cases h
      exact exec_call_of_full nnn (s := s.withInputsOf u) full
  case seImm | sneImm | seReg | sneReg =>
    cases h
    simp only [exec, execSeImm, execSneImm, execSeReg, execSneReg, State.skip_eq]
    rfl
  case drw x y n =>
    cases h
    simp only [exec, execDrw, plotSprite_withInputsOf]
    rfl
  all_goals
    cases h
    rfl

/-- Such an instruction leaves the timers and the keys as they are. -/
theorem exec_inputs_of_not_usesInputs {i : Instr} (hi : usesInputs i = false) {s t : State}
    (h : exec i s = .next t) : t.dt = s.dt ∧ t.st = s.st ∧ t.keys = s.keys := by
  have noDt : ∀ x, i ≠ .ldDtVx x := by rintro x rfl; cases hi
  have noSt : ∀ x, i ≠ .ldStVx x := by rintro x rfl; cases hi
  exact ⟨exec_sameExcept h .dt (dt_not_mem_changes noDt),
    exec_sameExcept h .st (st_not_mem_changes noSt),
    exec_sameExcept h .keys (keys_not_mem_changes i)⟩

/-- A `Tick` writes into every state with the timers and keys of `s` what it writes into `s`. -/
theorem State.tick_eq_withInputsOf {s t : State} (dt : t.dt = s.dt) (st : t.st = s.st)
    (keys : t.keys = s.keys) : t.tick = t.withInputsOf s.tick :=
  calc t.tick = t.withInputsOf t.tick := rfl
    _ = t.withInputsOf s.tick := by simp [State.withInputsOf, State.tick, dt, st, keys]

/-- A `SetKeys` writes into every state with the timers of `s` what it writes into `s`. -/
theorem State.pressKeys_eq_withInputsOf {s t : State} (dt : t.dt = s.dt) (st : t.st = s.st)
    (k : Keys) : t.pressKeys k = t.withInputsOf (s.pressKeys k) :=
  calc t.pressKeys k = t.withInputsOf (t.pressKeys k) := rfl
    _ = t.withInputsOf (s.pressKeys k) := by
      simp [State.withInputsOf, State.pressKeys, State.quiet, dt, st]

/-- A `Tick` before an instruction that uses no timer comes to the same as one after it (R158). -/
theorem exec_tick {i : Instr} {s t : State} (h : exec i s = .next t) (hread : ∀ x, i ≠ .ldVxDt x)
    (hdt : ∀ x, i ≠ .ldDtVx x) (hst : ∀ x, i ≠ .ldStVx x) : exec i s.tick = .next t.tick := by
  cases hu : usesInputs i with
  | false =>
    obtain ⟨dt, st, keys⟩ := exec_inputs_of_not_usesInputs hu h
    rw [State.tick_eq_withInputsOf dt st keys]
    exact exec_withInputsOf hu h s.tick
  | true =>
    cases i
    case skp | sknp =>
      cases h
      simp only [exec, execSkp, execSknp, State.skip_eq]
      rfl
    case ldVxK x =>
      obtain ⟨up, rfl⟩ | ⟨k, down, rfl⟩ := exec_ldVxK_cases h
      · exact exec_ldVxK_of_none x (s := s.tick) up
      · exact exec_ldVxK_of_some x (s := s.tick) down
    case ldVxDt x => exact absurd rfl (hread x)
    case ldDtVx x => exact absurd rfl (hdt x)
    case ldStVx x => exact absurd rfl (hst x)
    all_goals cases hu

/-- A `SetKeys` before an instruction that reads no key comes to the same as one after it (R167). -/
theorem exec_pressKeys {i : Instr} {s t : State} (h : exec i s = .next t) (hskp : ∀ x, i ≠ .skp x)
    (hsknp : ∀ x, i ≠ .sknp x) (hwait : ∀ x, i ≠ .ldVxK x) (k : Keys) :
    exec i (s.pressKeys k) = .next (t.pressKeys k) := by
  cases hu : usesInputs i with
  | false =>
    obtain ⟨dt, st, -⟩ := exec_inputs_of_not_usesInputs hu h
    rw [State.pressKeys_eq_withInputsOf dt st]
    exact exec_withInputsOf hu h (s.pressKeys k)
  | true =>
    cases i
    case ldVxDt | ldDtVx | ldStVx =>
      cases h
      rfl
    case skp x => exact absurd rfl (hskp x)
    case sknp x => exact absurd rfl (hsknp x)
    case ldVxK x => exact absurd rfl (hwait x)
    all_goals cases hu

/-! ## Installing an image (R169) -/

/-- The cells an image of at most 3584 bytes goes to, as numbers: they do not wrap. -/
theorem a12_progBase_add_toNat {k : Nat} (hk : k < 3584) :
    (a12 (Config.progBase + BitVec.ofNat 16 k)).toNat = 0x200 + k := by
  simp only [a12, Config.progBase, BitVec.ofNat_eq_ofNat, BitVec.extractLsb'_toNat,
    BitVec.toNat_add, BitVec.toNat_ofNat, Nat.shiftRight_zero]
  omega

theorem State.quiet_setMem_sameExcept (s : State) (m : Memory) :
    SameExcept [.memory, .soundOffEdge] s (s.quiet.setMem m) := by
  intro p hp
  cases p <;> simp_all [SamePart, State.quiet]

theorem installImage_of_fits {image : List Byte} {s : State} (fresh : s.started = false)
    (fits : image.length ≤ 3584) : installImage image s =
      .next (s.quiet.setMem (s.mem.writeBytes Config.progBase image)) := by
  have notTooLong : ¬ image.length > Config.progMax := Nat.not_lt.mpr fits
  rw [installImage, fresh, if_neg Bool.false_ne_true, if_neg notTooLong]

theorem installImage_of_too_long {image : List Byte} {s : State} (fresh : s.started = false)
    (long : 3584 < image.length) : installImage image s = .refused (.imageTooLong image.length) := by
  have tooLong : image.length > Config.progMax := long
  rw [installImage, fresh, if_neg Bool.false_ne_true, if_pos tooLong]

theorem installImage_of_started {image : List Byte} {s : State} (started : s.started = true) :
    installImage image s = .refused .installAfterFirstStep :=
  if_pos started

/-- An installed byte reads back at its own address. -/
theorem read_installed {m : Memory} (canonical : m.wf = true) {image : List Byte}
    (fits : image.length ≤ 3584) {a : Addr} {b : Byte} (hb : image[a.toNat - 0x200]? = some b)
    (above : 0x200 ≤ a.toNat) : (m.writeBytes Config.progBase image).read a = b := by
  obtain ⟨inside, rfl⟩ := List.getElem?_eq_some_iff.mp hb
  have cell : a12 (Config.progBase + BitVec.ofNat 16 (a.toNat - 0x200)) = a :=
    BitVec.eq_of_toNat_eq (by rw [a12_progBase_add_toNat (by omega)]; omega)
  have stored := Memory.read_writeBytes_self image canonical Config.progBase (by omega) inside
  rwa [cell] at stored

/-- An address outside the image reads as before. -/
theorem read_outside_installed (m : Memory) {image : List Byte} (fits : image.length ≤ 3584)
    {a : Addr} (outside : a.toNat < 0x200 ∨ 0x200 + image.length ≤ a.toNat) :
    (m.writeBytes Config.progBase image).read a = m.read a := by
  refine Memory.read_writeBytes_other image m Config.progBase a fun k hk e => ?_
  rw [← e, a12_progBase_add_toNat (by omega)] at outside
  omega

end Sys2Proof.Machine

namespace Sys2Proof.Claims

open Sys2Proof.Machine

/-! ## What a `Step` can do -/

theorem seenBy_sameExcept (s : State) : SameExcept [.awaitKey, .soundOffEdge, .started] s (seenBy s) :=
  (s.quiet_setStarted_sameExcept.mono (by decide)).trans
    ((State.setAwaitKey_sameExcept _ false).mono (by decide))

/-- A `Step` of a halted machine does nothing, a `Step` at an illegal word takes DecodeFailure, and any
other one executes the instruction at pc (R60, R154, R155). -/
theorem stepEvent_cases {s t : State} (h : stepEvent s = .next t) :
    (¬ s.faultFree ∧ t = s.quiet.setStarted true) ∨
      (s.faultFree ∧ decode s.fetch = none ∧
        t = (s.quiet.setStarted true).raise .decodeFailure s.fetch) ∨
      ∃ i, s.faultFree ∧ decode s.fetch = some i ∧ exec i (seenBy s) = .next t := by
  by_cases hf : s.faultFree
  · cases hi : decode s.fetch with
    | none =>
      rw [stepEvent_of_illegal hf hi] at h
      cases h
      exact .inr (.inl ⟨hf, rfl, rfl⟩)
    | some i =>
      rw [stepEvent_eq_exec hf (by rw [← fetch_eq_wordAtPc, hi])] at h
      exact .inr (.inr ⟨i, hf, rfl, h⟩)
  · rw [stepEvent_of_fault hf] at h
    cases h
    exact .inl ⟨hf, rfl⟩

/-- A part that is none of those the Executor itself writes changes in a `Step` only where the
instruction at pc changes it. -/
theorem stepEvent_samePart {p : Part} (hp : p ∉ [.fault, .awaitKey, .soundOffEdge, .started])
    {s t : State} (hi : ∀ i, decode s.fetch = some i → p ∉ changes i) (h : stepEvent s = .next t) :
    SamePart p s t := by
  obtain ⟨-, rfl⟩ | ⟨-, -, rfl⟩ | ⟨i, -, decoded, h⟩ := stepEvent_cases h
  · exact s.quiet_setStarted_sameExcept.mono (by decide) p hp
  · exact (s.decodeFailure_sameExcept _).mono (by decide) p hp
  · exact ((seenBy_sameExcept s).mono (by decide) p hp).trans (exec_sameExcept h p (hi i decoded))

/-- The same of every event but `Tick` and `Reset`, where the part is none that `SetKeys` or `Install`
writes. -/
theorem runEvent_samePart {p : Part}
    (hp : p ∉ [.fault, .awaitKey, .soundOffEdge, .started, .keys, .memory]) {e : Event} {s t : State}
    (htick : e ≠ .tick) (hreset : e ≠ .reset)
    (hi : e = .step → ∀ i, decode s.fetch = some i → p ∉ changes i) (h : runEvent e s = .next t) :
    SamePart p s t := by
  cases e with
  | step => exact stepEvent_samePart (fun mem => hp (by simp_all)) (hi rfl) h
  | tick => exact absurd rfl htick
  | setKeys keys =>
    cases h
    exact (s.pressKeys_sameExcept keys).mono (by decide) p hp
  | reset => exact absurd rfl hreset
  | install bytes =>
    obtain ⟨-, -, rfl⟩ := installImage_eq_next h
    exact (s.quiet_setMem_sameExcept _).mono (by decide) p hp

end Sys2Proof.Claims

namespace Sys2Proof.Proofs

open Sys2Proof.Machine Sys2Proof.Claims

/-! ## FAULT stays truthful (R150, R153) -/

/-- What a `Step` sees is truthful where the state is: a halted machine has the mark already. -/
theorem quiet_started_faultLatchTruthful {s : State} (hs : FaultLatchTruthful s) :
    FaultLatchTruthful (s.quiet.setStarted true) := by
  by_cases hf : s.faultFree
  · exact faultLatchTruthful_of_faultFree hf hs rfl
  · have mark := started_of_fault hs hf
    refine faultLatchTruthful_congr hs
      (.of_append_singleton (p := .started) (s.quiet_setStarted_sameExcept.mono (by decide)) ?_)
    exact mark.symm

/-- A `Step` keeps FAULT truthful: the words that the two stack faults latch are those that decoded to
them, since the encoder inverts the decoder. -/
theorem stepEvent_faultLatchTruthful {s t : State} (hs : FaultLatchTruthful s)
    (h : stepEvent s = .next t) : FaultLatchTruthful t := by
  obtain ⟨-, rfl⟩ | ⟨-, illegal, rfl⟩ | ⟨i, clear, decoded, h⟩ := stepEvent_cases h
  · exact quiet_started_faultLatchTruthful hs
  · exact ⟨rfl, rfl, rfl, illegal⟩
  · have word := (encode_of_decode decoded).1
    obtain same | ⟨rfl, empty, rfl⟩ | ⟨nnn, rfl, full, rfl⟩ := exec_fault_cases h
    · exact faultLatchTruthful_of_faultFree clear hs same
    · exact ⟨rfl, rfl, word, decoded, empty⟩
    · exact ⟨rfl, rfl, word, ⟨nnn, decoded⟩, full⟩

/-- Every event keeps FAULT truthful. `Install` writes memory, but only before the first `Step`, when no
fault can be latched. -/
theorem runEvent_faultLatchTruthful {e : Event} {s t : State} (hs : FaultLatchTruthful s)
    (h : runEvent e s = .next t) : FaultLatchTruthful t := by
  cases e with
  | step => exact stepEvent_faultLatchTruthful hs h
  | tick =>
    cases h
    exact faultLatchTruthful_congr hs (s.tick_sameExcept.mono (by decide))
  | setKeys keys =>
    cases h
    exact faultLatchTruthful_congr hs ((s.pressKeys_sameExcept keys).mono (by decide))
  | reset =>
    cases h
    exact ⟨rfl, rfl⟩
  | install bytes =>
    obtain ⟨notStarted, -, rfl⟩ := installImage_eq_next h
    have clear : s.faultFree := by
      by_contra hf
      exact Bool.eq_false_iff.mp notStarted (started_of_fault hs hf)
    exact faultLatchTruthful_of_faultFree clear hs rfl

/-- Settles O56: the event the step performs keeps FAULT truthful, and taking it off the agenda does. -/
theorem everyStepKeepsFaultLatchTruthful : Obligations.EveryStepKeepsFaultLatchTruthful := by
  intro s t hs h
  rw [step_eq_runEvent] at h
  exact runEvent_faultLatchTruthful
    (faultLatchTruthful_congr hs ((s.setAgenda_sameExcept _).mono (by decide))) h

/-! ## The halt (R155) -/

/-- An event other than `Reset` changes only timers, keys, the pulse output and the mark of a halted
machine; an `Install` is refused, since the machine has made a `Step`. -/
theorem runEvent_of_fault {e : Event} {s t : State} (hs : FaultLatchTruthful s)
    (hf : s.fault.kind ≠ .noFault) (hreset : e ≠ .reset) (h : runEvent e s = .next t) :
    SameExcept [.dt, .st, .keys, .soundOffEdge, .started] s t := by
  cases e with
  | step =>
    rw [runEvent, stepEvent_of_fault hf] at h
    cases h
    exact s.quiet_setStarted_sameExcept.mono (by decide)
  | tick =>
    cases h
    exact s.tick_sameExcept.mono (by decide)
  | setKeys keys =>
    cases h
    exact (s.pressKeys_sameExcept keys).mono (by decide)
  | reset => exact absurd rfl hreset
  | install bytes =>
    rw [runEvent, installImage_of_started (started_of_fault hs hf)] at h
    cases h

/-- So does a step with no `Reset` in the agenda, whose first event it takes off. -/
theorem step_of_fault {s t : State} (hs : FaultLatchTruthful s) (hf : s.fault.kind ≠ .noFault)
    (hreset : .reset ∉ s.agenda) (h : step s = .next t) :
    SameExcept [.dt, .st, .keys, .soundOffEdge, .started, .agenda] s t ∧
      t.agenda = s.agenda.tail := by
  rw [step_eq_runEvent] at h
  have notReset : s.agenda.headD .step ≠ .reset := by
    cases agenda : s.agenda with
    | nil => nofun
    | cons e rest =>
      rintro rfl
      exact hreset (by simp [agenda])
  have taken := s.setAgenda_sameExcept s.agenda.tail
  have frame := runEvent_of_fault
    (faultLatchTruthful_congr hs (taken.mono (by decide))) hf notReset h
  exact ⟨(taken.mono (by decide)).trans (frame.mono (by decide)), frame .agenda (by decide)⟩

/-- Settles O11: by induction on the number of events; a step keeps FAULT latched and truthful, and brings
no `Reset` into the agenda. -/
theorem haltIsForGoodWithoutReset : Obligations.HaltIsForGoodWithoutReset := by
  intro k
  induction k with
  | zero =>
    intro s t _ _ _ h
    cases h
    exact .refl _ s
  | succ k ih =>
    intro s t hs hf hreset h
    obtain ⟨u, first, rest⟩ := run_succ_eq_next h
    obtain ⟨frame, agenda⟩ := step_of_fault hs hf hreset first
    have latched : u.fault = s.fault := frame .fault (by decide)
    have noReset : .reset ∉ u.agenda := fun mem => hreset (List.mem_of_mem_tail (agenda ▸ mem))
    exact frame.trans (ih u t (everyStepKeepsFaultLatchTruthful s u hs first)
      (by rwa [latched]) noReset rest)

/-- Settles O10: the halted `Step`, and what the other two events write. -/
theorem haltedMachineStillTicksButDoesNotStep :
    Obligations.HaltedMachineStillTicksButDoesNotStep := by
  intro s hf
  exact ⟨⟨_, stepEvent_of_fault hf, s.quiet_setStarted_sameExcept⟩,
    ⟨_, rfl, rfl, countDown_toNat s.dt, countDown_toNat s.st⟩, fun k => ⟨_, rfl, rfl, rfl⟩⟩

/-- Settles O9: the `Step` at an illegal word raises the fault on the fetched word. -/
theorem illegalWordLatchesDecodeFailure : Obligations.IllegalWordLatchesDecodeFailure := by
  intro s agenda hf illegal
  rw [← fetch_eq_wordAtPc] at illegal ⊢
  rw [step_of_agenda_nil agenda]
  exact ⟨_, stepEvent_of_illegal hf illegal, rfl, rfl, rfl, s.decodeFailure_sameExcept _⟩

/-- Settles O12: a return, a call and a wait for a key answer in both of their cases. -/
theorem everyInstructionAnswersANextState : Obligations.EveryInstructionAnswersANextState :=
  exec_eq_next

/-! ## Timers and keys (R160, R161, R167) -/

/-- Settles O45: the event is taken off the agenda and both timers count down. -/
theorem tickCountsBothTimersDown : Obligations.TickCountsBothTimersDown := by
  intro s rest agenda
  have frame : SameExcept [.dt, .st, .soundOffEdge, .agenda] s (s.setAgenda rest).tick :=
    ((s.setAgenda_sameExcept rest).mono (by decide)).trans
      ((State.tick_sameExcept _).mono (by decide))
  exact ⟨_, step_of_agenda_cons agenda, countDown_toNat s.dt, countDown_toNat s.st,
    decide_eq_true_iff, rfl, frame⟩

/-- `k` ticks take a timer down by `k`, one at a time. -/
theorem run_ticks (k : Nat) {s : State} {rest : List Event}
    (agenda : s.agenda = List.replicate k .tick ++ rest) :
    ∃ t, Host.Core.run Sys2Proof.core k s = .next t ∧ t.dt.toNat = s.dt.toNat - k ∧
      t.st.toNat = s.st.toNat - k := by
  induction k generalizing s with
  | zero => exact ⟨s, rfl, rfl, rfl⟩
  | succ k ih =>
    obtain ⟨u, first, dt, st, -, remaining, -⟩ := tickCountsBothTimersDown s _ agenda
    obtain ⟨t, run, dt', st'⟩ := ih remaining
    exact ⟨t, (run_succ_of_step first k).trans run, by omega, by omega⟩

/-- Settles O46: the count by induction, the frame of the other events, and that of the three timer
instructions. -/
theorem timersReachZeroAndStay : Obligations.TimersReachZeroAndStay := by
  refine ⟨fun k s rest agenda => run_ticks k agenda, fun e s t htick hreset h => ⟨?dt, ?st⟩,
    fun x s t => ⟨?setDt, ?setSt, ?read⟩⟩
  case dt =>
    exact fun other => runEvent_samePart (p := .dt) (by decide) htick hreset
      (fun step i decoded => dt_not_mem_changes fun x e => other step x (e ▸ decoded)) h
  case st =>
    exact fun other => runEvent_samePart (p := .st) (by decide) htick hreset
      (fun step i decoded => st_not_mem_changes fun x e => other step x (e ▸ decoded)) h
  case setDt => exact fun h => exec_sameExcept h .st (by simp [changes])
  case setSt => exact fun h => exec_sameExcept h .dt (by simp [changes])
  case read =>
    exact fun h => ⟨exec_sameExcept h .dt (by simp [changes]),
      exec_sameExcept h .st (by simp [changes])⟩

/-- Settles O47: `SetKeys` writes the whole vector, and no instruction has the keys among the parts it
changes. -/
theorem setKeysReplacesTheWholeVector : Obligations.SetKeysReplacesTheWholeVector := by
  refine ⟨fun s k rest agenda => ?replaced, fun i s t h => ?instr, fun s t h => ?events⟩
  case replaced =>
    have frame : SameExcept [.keys, .soundOffEdge, .agenda] s ((s.setAgenda rest).pressKeys k) :=
      ((s.setAgenda_sameExcept rest).mono (by decide)).trans
        ((State.pressKeys_sameExcept _ k).mono (by decide))
    exact ⟨_, step_of_agenda_cons agenda, fun _ => rfl, rfl, frame⟩
  case instr => exact exec_sameExcept h .keys (keys_not_mem_changes i)
  case events =>
    obtain h | h := h
    · exact stepEvent_samePart (p := .keys) (by decide) (fun i _ => keys_not_mem_changes i) h
    · cases h
      rfl

/-- Settles O48: an instruction that uses neither timers nor keys does the same whatever they are, and
those that use only the other kind are run one by one. -/
theorem ticksAndKeysCommuteWithOtherInstructions :
    Obligations.TicksAndKeysCommuteWithOtherInstructions :=
  fun _ _ _ h => ⟨exec_tick h, exec_pressKeys h⟩

/-! ## Installing and the end of a program (R169, R173) -/

/-- Settles O51: the image is one block of writes at 0x200, which ends at the top of memory at the
latest. -/
theorem installStoresTheImageVerbatim : Obligations.InstallStoresTheImageVerbatim := by
  intro s image canonical
  refine ⟨fun fresh fits => ?stored, installImage_of_too_long, installImage_of_started⟩
  exact ⟨_, installImage_of_fits fresh fits, fun a b => read_installed canonical fits,
    fun a => read_outside_installed s.mem fits, s.quiet_setMem_sameExcept _⟩

/-- Settles O52: the jump writes the pc that is there already, so the next state is the one the
instruction sees. -/
theorem finishedProgramStaysFinished : Obligations.FinishedProgramStaysFinished := by
  intro s agenda finished
  obtain ⟨clear, nnn, jump, target⟩ := finished
  have stays : step s = .next (seenBy s) := by
    rw [step_of_agenda_nil agenda, stepEvent_eq_exec clear (by rw [← fetch_eq_wordAtPc, jump]), exec,
      execJp, target]
    rfl
  exact ⟨_, stays, rfl, ⟨clear, nnn, jump, target⟩, seenBy_sameExcept s⟩

end Sys2Proof.Proofs
end

section
/-! Proof of the family `70_reset_and_hazards.md`: what the event `Reset` brings and what it keeps. -/

namespace Sys2Proof.Machine

open Sys2Proof.Claims

/-- `Reset` brings the reset state in every part but the stack's entries and the model's own count of
draws and agenda (R180). -/
theorem State.resetEvent_sameExcept (s : State) :
    SameExcept [.stack, .draws, .agenda] State.reset s.resetEvent := by
  intro p hp
  cases p <;> simp_all [SamePart, State.resetEvent]

end Sys2Proof.Machine

namespace Sys2Proof.Proofs

open Sys2Proof.Machine Sys2Proof.Claims

/-- Settles O50: `Reset` reads only the stack's entries, the count of draws and the agenda that is left;
all else comes from the reset state. -/
theorem resetEventRestoresTheResetState : Obligations.ResetEventRestoresTheResetState := by
  intro s rest agenda
  have frame : SameExcept [.stack, .draws, .agenda, .started] State.reset
      (s.setAgenda rest).resetEvent :=
    (State.resetEvent_sameExcept _).mono (by decide)
  exact ⟨_, step_of_agenda_cons agenda, rfl, rfl, rfl, rfl, rfl, frame⟩

end Sys2Proof.Proofs
end
